-- ==== Sys2Proof/Word.lean ====
section
/-! DEFINITION. The widths of the block's values (00_scope.md R6): bytes, 16-bit CRC values and 32-bit register words.
All values are unsigned and arithmetic on a field wraps at the field's width, which is `BitVec` arithmetic. -/

namespace Sys2Proof

/-- A u8 (00_scope.md R6). -/
abbrev Byte := BitVec 8

/-- A u16, the width of a CRC value (40_crc.md R120). -/
abbrev Half := BitVec 16

/-- A u32, the width of every register and of a command word (10_state.md, 30_encoding.md R90). -/
abbrev Word := BitVec 32

/-- A byte offset into the 256-byte host register window (20_memory.md R60). -/
abbrev Offset := BitVec 8

end Sys2Proof
end

