-- ==== Sys2Proof/Config.lean ====
section
/-! DEFINITION. What an implementation fixes and the spec leaves open (00_scope.md R5, 93_implementation_defined.md
part 1). An `opaque` constant has no value in Lean, so a claim proved of the model holds whatever it is. -/

namespace Sys2Proof

/-- Parity of a character (92_eei_decisions.md D16). The spec's default is `none`. That `even` and `odd` are the only other
values, so neither mark nor space parity, is the model's choice (DESIGN CHOICE, log 6); what they do to the line is
PRESUMED (log 6). -/
inductive Parity where
  | none
  | even
  | odd
deriving DecidableEq, Repr

/-- Parameter CHAR_FORMAT (00_scope.md R5, 42_transport.md R172): the bit layout of a character on `txd`. The spec leaves
the values it may take open. The model's are one start bit, any number of data bits in either order, a parity of `Parity`,
and any whole number of stop bits, so not 1.5 (DESIGN CHOICE, log 6). -/
structure CharFormat where
  dataBits : Nat
  parity   : Parity
  stopBits : Nat
  lsbFirst : Bool
deriving DecidableEq, Repr

/-- The default of CHAR_FORMAT: 8 data bits, no parity, 1 stop bit, LSB first (00_scope.md R5, 42_transport.md R172). -/
def CharFormat.default8N1 : CharFormat :=
  { dataBits := 8, parity := .none, stopBits := 1, lsbFirst := true }

/-- Parameter CRC_VARIANT (00_scope.md R5, 90_conflicts.md C7): the CRC algorithm beyond the constant 0xA001 and the
initial value 0xFFFF. `modbus` is the spec's default (40_crc.md R120, R121); `other n` is any other algorithm, its step
and its final transformation free (log 5). -/
inductive CrcVariant where
  | modbus
  | other (n : Nat)
deriving DecidableEq, Repr

/-- An entry of parameter REGISTRY (00_scope.md R5, 92_eei_decisions.md D33): the numeric code that the host's tables give
a command, a register or a coil. The form of an entry is the model's (log 22). -/
inductive RegistryEntry where
  | command (name : String) (code : Byte)
  | register (name : String) (number : Half)
  | coil (name : String) (number : Half)
deriving DecidableEq, Repr

/-- The implementation parameters. The machine carries them as plain data in its state ("A model takes each OPEN parameter
as an argument", 00_scope.md R5) and no step changes them. COIL_DATA_MAP, a function, is an argument of the host-level
notation that uses it (Machine/HostProgram.lean). -/
structure Params where
  /-- `T_CHAR_NS`: ns per character on the wire (42_transport.md R172); the spec requires it to be positive. -/
  charNs : Nat
  /-- `TIMER_SLACK_NS`: how much longer than `v * 1000` ns a timed phase may last (92_eei_decisions.md D12); default 0. -/
  timerSlackNs : Nat
  /-- `CHAR_FORMAT` (42_transport.md R172). -/
  charFormat : CharFormat
  /-- `CRC_VARIANT` (40_crc.md R120); default CRC-16/MODBUS. -/
  crcVariant : CrcVariant
  /-- `BAUD`, in bits per second: informative only (00_scope.md R5). -/
  baud : Nat
  /-- `F_CLK_HZ`: no rule depends on it (10_state.md R42, 92_eei_decisions.md D39). -/
  fClkHz : Nat
  /-- `REGISTRY`: host level only (43_transactions.md R217, 92_eei_decisions.md D33). -/
  registry : List RegistryEntry
deriving DecidableEq, Repr

/-- Free constant: one less than `T_CHAR_NS`. The spec leaves `T_CHAR_NS` OPEN and requires it to be > 0 (log 3). -/
opaque Config.charNsPred : Nat

/-- `T_CHAR_NS` of the built block: positive, otherwise free (log 3). -/
def Config.charNs : Nat := Config.charNsPred + 1

/-- Free values: the byte delivered for the n-th drawn character with a framing or parity error, "a draw: any byte"
(42_transport.md R186, log 7). -/
opaque Config.badCharByte : Nat → Byte

/-- Free values: the raw n-th draw of a timer's slack, used only when `TIMER_SLACK_NS` > 0 and then reduced to at most
`TIMER_SLACK_NS` (92_eei_decisions.md D12, log 4). -/
opaque Config.timerJitter : Nat → Nat

/-- Free values: the raw n-th draw of the gap, less 1 ns, between two STATUS reads of a POLL_DONE loop
(30_encoding.md R101 does not say how often the host reads; log 14). -/
opaque Config.pollGap : Nat → Nat

/-- Free functions: `crc_update` of the CRC_VARIANT that is number n of the others (90_conflicts.md C7, log 5). -/
opaque Config.otherCrcUpdate : Nat → Half → Byte → Half

/-- Free functions: what the CRC_VARIANT that is number n of the others does to the accumulator after the last byte
(90_conflicts.md C7, log 5). -/
opaque Config.otherCrcFinal : Nat → Half → Half

/-- Free constant: `BAUD` of the built block, informative only (00_scope.md R5, log 22). -/
opaque Config.baud : Nat

/-- Free constant: `F_CLK_HZ` of the built block; no rule depends on it (00_scope.md R5, log 22). -/
opaque Config.fClkHz : Nat

/-- Free constant: the `REGISTRY` of the host's software (92_eei_decisions.md D33, log 22). -/
opaque Config.registry : List RegistryEntry

/-- Free function: parameter COIL_DATA_MAP, which picks D0 and D1 of a coil frame from (register, value_high,
value_low). Host level only: no rule of the block reads it (43_transactions.md R217, log 23). -/
opaque Config.coilDataMap : Half → Byte → Byte → Byte × Byte

/-- The parameters of the built block: the spec's default where it gives one (TIMER_SLACK_NS, CHAR_FORMAT, CRC_VARIANT),
otherwise free (00_scope.md R5). -/
def Config.params : Params :=
  { charNs := Config.charNs, timerSlackNs := 0, charFormat := CharFormat.default8N1, crcVariant := .modbus
    baud := Config.baud, fClkHz := Config.fClkHz, registry := Config.registry }

end Sys2Proof
end

