-- ==== Sys2Proof/Machine/Crc.lean ====
section
/-! DEFINITION. The CRC function of 40_crc.md for every CRC_VARIANT: by default the reflected right-shift form with
constant 0xA001, initial value 0xFFFF and no final XOR (40_crc.md R120, R121), otherwise a free algorithm (log 5). -/

namespace Sys2Proof.Machine

/-- The polynomial constant (00_scope.md R5). -/
def crcPoly : Half := 0xA001

/-- The initial value of the generator (00_scope.md R5). -/
def crcInitValue : Half := 0xFFFF

/-- One bit step: shift right by one and XOR the constant when the bit shifted out was 1 (40_crc.md R120). -/
def crcBit (c : Half) : Half :=
  if c.getLsbD 0 then (c >>> 1) ^^^ crcPoly else c >>> 1

/-- `n` bit steps. -/
def crcBits : Nat → Half → Half
  | 0, c     => c
  | n + 1, c => crcBits n (crcBit c)

/-- `crc_update(c, b)` (40_crc.md R120). -/
def crcUpdate (v : CrcVariant) (c : Half) (b : Byte) : Half :=
  match v with
  | .modbus  => crcBits 8 (c ^^^ b.setWidth 16)
  | .other n => Config.otherCrcUpdate n c b

/-- What is done to the accumulator after the last byte: nothing by default (40_crc.md R121). -/
def crcFinal (v : CrcVariant) (c : Half) : Half :=
  match v with
  | .modbus  => c
  | .other n => Config.otherCrcFinal n c

/-- `crc_update` folded over a byte list from the accumulator value `c`. -/
def crcFold (v : CrcVariant) (c : Half) (xs : List Byte) : Half := xs.foldl (crcUpdate v) c

/-- `crc16(xs)` (40_crc.md R121). -/
def crc16 (v : CrcVariant) (xs : List Byte) : Half := crcFinal v (crcFold v crcInitValue xs)

/-- The low byte of a CRC, sent first (40_crc.md R125, 20_memory.md R67). -/
def crcLo (c : Half) : Byte := c.extractLsb' 0 8

/-- The high byte of a CRC, sent second (40_crc.md R125, 20_memory.md R67). -/
def crcHi (c : Half) : Byte := c.extractLsb' 8 8

end Sys2Proof.Machine
end

