-- ==== Sys2Proof/Machine/Frame.lean ====
section
/-! DEFINITION. Frames and the pure frame functions of 41_codec.md section 1 (R140 to R149). -/

namespace Sys2Proof.Machine

/-- A frame `{addr, cmd, data, crc}` (41_codec.md R140). -/
structure Frame where
  addr : Byte
  cmd  : Byte
  data : List Byte
  crc  : Half
deriving DecidableEq, Repr

/-- `ShortRead` or a frame: what `decode_bytes` returns (41_codec.md R142). -/
inductive Decoded where
  | shortRead
  | frame (f : Frame)
deriving DecidableEq, Repr

/-- A frame carries 2, 3 or 4 data bytes (41_codec.md R140). -/
def frameLenOk (f : Frame) : Bool :=
  f.data.length == 2 || f.data.length == 3 || f.data.length == 4

/-- The CRC of a frame covers address, command and data, in that order (40_crc.md R122). -/
def frameCrc (v : CrcVariant) (addr cmd : Byte) (data : List Byte) : Half := crc16 v ([addr, cmd] ++ data)

/-- `encode_bytes(f)`: the wire form, CRC low byte first (41_codec.md R141). -/
def encodeBytes (f : Frame) : List Byte :=
  [f.addr, f.cmd] ++ f.data ++ [crcLo f.crc, crcHi f.crc]

/-- `decode_bytes(bs, L)`: the first L bytes as a frame with L-4 data bytes; ShortRead, and never a frame, if there are
fewer than L (41_codec.md R142). -/
def decodeBytes (bs : List Byte) (len : Nat) : Decoded :=
  if bs.length < len then .shortRead
  else .frame
    { addr := bs.getD 0 0
      cmd  := bs.getD 1 0
      data := (bs.drop 2).take (len - 4)
      crc  := bs.getD (len - 1) 0 ++ bs.getD (len - 2) 0 }

/-- `validate_frame(f)` (41_codec.md R144). -/
def validateFrame (v : CrcVariant) (f : Frame) : Bool := frameCrc v f.addr f.cmd f.data == f.crc

end Sys2Proof.Machine
end

