-- ==== Sys2Proof/Machine/State.lean ====
section
/-! DEFINITION. The state of the machine as plain data: the block's registers and hidden fields (10_state.md R20 to
R40), its input lines, the time, and what stands around the block in a run (92_eei_decisions.md D34). -/

namespace Sys2Proof.Machine

/-- The result codes of STATUS.RESULT (10_state.md R23). Codes 6 and 7 are never produced, so they have no name. -/
inductive Result where
  | ok
  | shortRead
  | crcMismatch
  | transportError
  | illegalCmd
  | noFrame
deriving DecidableEq, Repr

/-- `hidden.phase` (10_state.md R38). -/
inductive Phase where
  | idle
  | settle
  | shift
  | drain
  | rxwait
deriving DecidableEq, Repr

/-- `hidden.op`: the bus command in progress (10_state.md R38). -/
inductive BusOp where
  | none
  | send
  | receive
  | regXact
  | coilXact
deriving DecidableEq, Repr

/-- TXF0 and TXF1: the frame ENCODE and the transactions build (10_state.md R26, R27). -/
structure TxFields where
  addr : Byte
  cmd  : Byte
  d0   : Byte
  d1   : Byte
  d2   : Byte
  d3   : Byte
deriving DecidableEq, Repr

/-- RXF0 and RXF1: the decoded frame (10_state.md R31, R32). -/
structure RxFields where
  addr : Byte
  cmd  : Byte
  d0   : Byte
  d1   : Byte
  d2   : Byte
  d3   : Byte
  crc  : Half
deriving DecidableEq, Repr

/-- TXBUF and RXBUF hold 8 bytes each (10_state.md R28, R30). -/
abbrev Buf := Vector Byte 8

/-- The block: groups (1) and (2) of 10_state.md R20. BUSY, DIR and PHASE of STATUS are functions of `phase`
(10_state.md R39 to R41) and are stored once, as `phase`. CMD holds no state (10_state.md R24). -/
structure Block where
  /-- CTRL.PORT_EN (R21) -/
  portEn  : Bool
  /-- CTRL.IRQ_EN (R21) -/
  irqEn   : Bool
  /-- STATUS.DONE (R22) -/
  done    : Bool
  /-- STATUS.RESULT (R22, R23) -/
  result  : Result
  /-- STATUS.VALID (R22) -/
  valid   : Bool
  /-- STATUS.RX_DROP (R22) -/
  rxDrop  : Bool
  /-- STATUS.BUSY_WR (R22) -/
  busyWr  : Bool
  /-- STATUS.RXCNT (R22, R40) -/
  rxcnt   : BitVec 4
  /-- CRC (R25) -/
  crc     : Half
  /-- TXF0, TXF1 (R26, R27) -/
  txf     : TxFields
  /-- TXBUF, that is TXB0 and TXB1 (R28) -/
  txbuf   : Buf
  /-- TXLEN (R29) -/
  txlen   : BitVec 4
  /-- RXBUF, that is RXB0 and RXB1 (R30) -/
  rxbuf   : Buf
  /-- RXF0, RXF1 (R31, R32) -/
  rxf     : RxFields
  /-- RXINFO.DLEN (R33) -/
  dlen    : BitVec 3
  /-- T_SETTLE in µs (R34) -/
  tSettle : BitVec 24
  /-- T_DRAIN in µs (R35) -/
  tDrain  : BitVec 24
  /-- T_RXTO in µs (R36) -/
  tRxto   : BitVec 24
  /-- hidden.phase (R38) -/
  phase   : Phase
  /-- hidden.op (R38) -/
  op      : BusOp
  /-- hidden.t_dead in ns (R38) -/
  tDead   : Nat
  /-- hidden.t_open in ns (R38) -/
  tOpen   : Nat
  /-- hidden.tx_idx (R38) -/
  txIdx   : Nat
  /-- hidden.rx_n (R38) -/
  rxN     : Nat
deriving DecidableEq, Repr

/-- The reset value of every register and hidden field (10_state.md section 10, 70_reset_and_hazards.md R270). -/
def Block.reset : Block :=
  { portEn := false, irqEn := false
    done := false, result := .ok, valid := false, rxDrop := false, busyWr := false, rxcnt := 0
    crc := 0xFFFF
    txf := { addr := 0, cmd := 0, d0 := 0, d1 := 0, d2 := 0, d3 := 0 }
    txbuf := #v[0, 0, 0, 0, 0, 0, 0, 0], txlen := 0
    rxbuf := #v[0, 0, 0, 0, 0, 0, 0, 0]
    rxf := { addr := 0, cmd := 0, d0 := 0, d1 := 0, d2 := 0, d3 := 0, crc := 0 }, dlen := 0
    tSettle := 6000, tDrain := 4000, tRxto := 100000
    phase := .idle, op := .none, tDead := 0, tOpen := 0, txIdx := 0, rxN := 0 }

/-- The registers of the host window (10_state.md R20, register map). -/
inductive Reg where
  | ctrl
  | status
  | cmd
  | crc
  | txf0
  | txf1
  | txb0
  | txb1
  | txlen
  | rxb0
  | rxb1
  | rxf0
  | rxf1
  | rxinfo
  | tSettle
  | tDrain
  | tRxto
deriving DecidableEq, Repr

/-- A statement of the host program (30_encoding.md R101). An access names its width in bytes, so that the accesses
20_memory.md R61 refuses can be issued. -/
inductive HostStmt where
  /-- `RD`: `MemRead(off, size)`; the value goes to the observation (00_scope.md R11). -/
  | rd (off : Offset) (size : Nat)
  /-- `WR`: `MemWrite(off, size, v)`. -/
  | wr (off : Offset) (size : Nat) (v : Word)
  /-- `AT t`: the host does nothing until now = t. -/
  | waitUntil (t : Nat)
  /-- `POLL_DONE`: read STATUS until DONE = 1. `next` is the time from which the loop reads again; 0 when the statement
  is written, so that it reads at once (log 14). -/
  | pollDone (next : Nat)
deriving DecidableEq, Repr

/-- A character of the bus script: the time its stop bit ends, and its byte, or none for a character with a framing
or parity error (42_transport.md R179, R186). -/
structure BusChar where
  endTime : Nat
  byte    : Option Byte
deriving DecidableEq, Repr

/-- A level change of a line and its time (00_scope.md R11; also an edge of the input `rst_n`). -/
structure Edge where
  time  : Nat
  level : Bool
deriving DecidableEq, Repr

/-- The two agents whose order at one instant the spec leaves open (00_scope.md R9 orders only the Engine). -/
inductive Agent where
  | host
  | bus
deriving DecidableEq, Repr

/-- What stands around the block in a run: the rest of the host program, of the bus script and of the reset script
(92_eei_decisions.md D34, D35; 70_reset_and_hazards.md R270). -/
structure Env where
  host : List HostStmt
  bus  : List BusChar
  rst  : List Edge
  /-- Who goes first where a due character meets a ready host statement; the model's own field (log 9). -/
  ties : List Agent
  /-- The gaps in ns between the STATUS reads of POLL_DONE loops, used up one by one; the model's own field (log 14). -/
  polls : List Nat
deriving DecidableEq, Repr

/-- A transmitted character of the `txd` trace: byte, start time, and the time reset cut it off, if it did
(42_transport.md R173, 70_reset_and_hazards.md R271). -/
structure TxChar where
  byte      : Byte
  start     : Nat
  truncated : Option Nat
deriving DecidableEq, Repr

/-- The observation of a run so far, oldest first (00_scope.md R11, 92_eei_decisions.md D34). -/
structure Obs where
  reads    : List Word
  txdTrace : List TxChar
  dirTrace : List Edge
  irqTrace : List Edge
deriving DecidableEq, Repr

/-- The state of the machine. -/
structure State where
  /-- the implementation parameters; no step changes them (00_scope.md R5) -/
  params : Params
  /-- the registers and hidden fields of the block (10_state.md R20) -/
  block  : Block
  /-- the level of the input `rst_n`: false while reset is held (10_state.md R42, 70_reset_and_hazards.md R270) -/
  rstN   : Bool
  /-- global time in ns; not block state and not reset (10_state.md R20) -/
  now    : Nat
  /-- how many free values have been drawn; the model's own field (log 27) -/
  draws  : Nat
  /-- host program, bus script and reset script still to come -/
  env    : Env
  /-- the observation so far -/
  obs    : Obs
deriving DecidableEq, Repr

/-- Why the machine stops. -/
inductive Fault where
  /-- Raised by a host access that is not 32 bits wide or not 4-byte aligned (20_memory.md R61, 60_exceptions.md R248).
  The spec's own fault: the access changes no block state and the step has no successor
  (93_implementation_defined.md row 10). SAFE: the model stops where a built part might accept (D3). -/
  | busError (off : Offset)
  /-- Raised by the step when the host program is finished and no agent has anything left to do: the end of the run
  (00_scope.md R10, 93_implementation_defined.md row 17). SAFE: the model stops where time would go on. -/
  | hostFinished
  /-- Raised by an Engine or Bus step in a state whose `phase` and `op` no rule of 42_transport.md pairs; no run from
  reset reaches one (log 18). SAFE: the model stops. -/
  | noEngineRule
deriving DecidableEq, Repr

/-- Why an instruction has no meaning. -/
inductive Refusal where
  /-- Raised by `exec` for a command whose meaning is not written; SAFE: the model stops. No arm raises it now. -/
  | notModelled (mnemonic : String)
deriving DecidableEq, Repr

/-- The machine right after reset: the block at its reset values, `rst_n` released, nothing placed in the environment
and nothing observed (10_state.md section 10; logs 2, 3, 19). -/
def State.reset : State :=
  { params := Config.params
    block := Block.reset
    rstN := true
    now := 0
    draws := 0
    env := { host := [], bus := [], rst := [], ties := [], polls := [] }
    obs := { reads := [], txdTrace := [], dirTrace := [], irqTrace := [] } }

end Sys2Proof.Machine
end

