-- ==== Sys2Proof/Machine/Operands.lean ====
section
/-! DEFINITION. Every operand form: the byte lanes of a register word (20_memory.md R66), the two buffers
(10_state.md R28, R30), the data bytes of TXF and RXF, the SEND length check, and the register map (10_state.md R20). -/

namespace Sys2Proof.Machine

/-- Byte lane k of a register value: bits [8k+7:8k] (20_memory.md R66). -/
def lane (v : Word) (k : Nat) : Byte := v.extractLsb' (8 * k) 8

/-- A register value from its four lanes, lane 0 first (20_memory.md R66). -/
def ofLanes (b0 b1 b2 b3 : Byte) : Word := b3 ++ b2 ++ b1 ++ b0

/-- A buffer from its eight bytes by index. -/
def bufOf (f : Nat → Byte) : Buf := #v[f 0, f 1, f 2, f 3, f 4, f 5, f 6, f 7]

/-- The empty buffer: eight zero bytes (42_transport.md R178). -/
def bufZero : Buf := bufOf fun _ => 0

/-- Byte k of a buffer; an index past 7, which no run reaches, reads 0 (log 25). -/
def bufGet (b : Buf) (k : Nat) : Byte := b.toList.getD k 0

/-- A buffer with byte k replaced; an index past 7, which no run reaches, changes nothing (log 25). -/
def bufSet (b : Buf) (k : Nat) (x : Byte) : Buf := b.setIfInBounds k x

/-- The lower register of a buffer: bytes 0 to 3 (10_state.md R28, R30). -/
def bufWord0 (b : Buf) : Word := ofLanes (bufGet b 0) (bufGet b 1) (bufGet b 2) (bufGet b 3)

/-- The upper register of a buffer: bytes 4 to 7 (10_state.md R28, R30). -/
def bufWord1 (b : Buf) : Word := ofLanes (bufGet b 4) (bufGet b 5) (bufGet b 6) (bufGet b 7)

/-- A buffer with its lower four bytes written from a register value (20_memory.md R64). -/
def bufWithWord0 (b : Buf) (v : Word) : Buf := bufOf fun k => if k < 4 then lane v k else bufGet b k

/-- A buffer with its upper four bytes written from a register value (20_memory.md R64). -/
def bufWithWord1 (b : Buf) (v : Word) : Buf := bufOf fun k => if k < 4 then bufGet b k else lane v (k - 4)

/-- The first n of TXF.D0 to TXF.D3 (41_codec.md R146). -/
def TxFields.data (t : TxFields) (n : Nat) : List Byte := [t.d0, t.d1, t.d2, t.d3].take n

/-- The first n of RXF.D0 to RXF.D3 (41_codec.md R148, 43_transactions.md R212). -/
def RxFields.data (r : RxFields) (n : Nat) : List Byte := [r.d0, r.d1, r.d2, r.d3].take n

/-- The cleared RXF (41_codec.md R147, `clear_rxf`). -/
def rxFieldsZero : RxFields := { addr := 0, cmd := 0, d0 := 0, d1 := 0, d2 := 0, d3 := 0, crc := 0 }

/-- RXF loaded from a decoded frame: data bytes past the frame's are 0 (41_codec.md R147, `load_rxf`). -/
def rxFieldsOf (f : Frame) : RxFields :=
  { addr := f.addr, cmd := f.cmd
    d0 := f.data.getD 0 0, d1 := f.data.getD 1 0, d2 := f.data.getD 2 0, d3 := f.data.getD 3 0
    crc := f.crc }

/-- The frame held in RXF, with RXINFO.DLEN data bytes (10_state.md R31 to R33). -/
def Block.rxFrame (b : Block) : Frame :=
  { addr := b.rxf.addr, cmd := b.rxf.cmd, data := b.rxf.data b.dlen.toNat, crc := b.rxf.crc }

/-- The valid frame ENCODE n builds from TXF (41_codec.md R146). -/
def Block.txFrame (v : CrcVariant) (n : Nat) (b : Block) : Frame :=
  { addr := b.txf.addr, cmd := b.txf.cmd, data := b.txf.data n
    crc := frameCrc v b.txf.addr b.txf.cmd (b.txf.data n) }

/-- RXBUF[0 .. RXCNT-1]: the bytes received (41_codec.md R147). -/
def Block.rxBytes (b : Block) : List Byte := b.rxbuf.toList.take b.rxcnt.toNat

/-- TXBUF[0 .. TXLEN-1]: the bytes SEND transmits (42_transport.md R174). -/
def Block.txBytes (b : Block) : List Byte := b.txbuf.toList.take b.txlen.toNat

/-- SEND accepts a TXLEN of 1 to 8 (42_transport.md R174). -/
def txlenLegal (n : BitVec 4) : Bool := 1 ≤ n && n ≤ 8

/-- Byte offset of each register (10_state.md R20, register map). -/
def Reg.offset : Reg → Offset
  | .ctrl    => 0x00
  | .status  => 0x04
  | .cmd     => 0x08
  | .crc     => 0x0C
  | .txf0    => 0x10
  | .txf1    => 0x14
  | .txb0    => 0x18
  | .txb1    => 0x1C
  | .txlen   => 0x20
  | .rxb0    => 0x24
  | .rxb1    => 0x28
  | .rxf0    => 0x2C
  | .rxf1    => 0x30
  | .rxinfo  => 0x34
  | .tSettle => 0x38
  | .tDrain  => 0x3C
  | .tRxto   => 0x40

/-- The register at an aligned offset; none for the reserved offsets 0x44 to 0xFC (10_state.md R37). -/
def regAt (off : Offset) : Option Reg :=
  match off.toNat with
  | 0x00 => some .ctrl
  | 0x04 => some .status
  | 0x08 => some .cmd
  | 0x0C => some .crc
  | 0x10 => some .txf0
  | 0x14 => some .txf1
  | 0x18 => some .txb0
  | 0x1C => some .txb1
  | 0x20 => some .txlen
  | 0x24 => some .rxb0
  | 0x28 => some .rxb1
  | 0x2C => some .rxf0
  | 0x30 => some .rxf1
  | 0x34 => some .rxinfo
  | 0x38 => some .tSettle
  | 0x3C => some .tDrain
  | 0x40 => some .tRxto
  | _    => none

/-- An access is admitted only if it is 32 bits (4 bytes) wide and 4-byte aligned (20_memory.md R61). -/
def admitted (off : Offset) (size : Nat) : Bool := size == 4 && off.extractLsb' 0 2 == 0

end Sys2Proof.Machine
end

