-- ==== Sys2Proof/Machine/Flags.lean ====
section
/-! DEFINITION. Every flag and line computation: the codes of RESULT and PHASE, BUSY, the lines `dir` and `irq`, the
STATUS word and its write-1-to-clear bits (10_state.md R22, R23, R39 to R41; 20_memory.md R64; 60_exceptions.md R250). -/

namespace Sys2Proof.Machine

/-- The RESULT codes (10_state.md R23). -/
def Result.code : Result → BitVec 3
  | .ok             => 0
  | .shortRead      => 1
  | .crcMismatch    => 2
  | .transportError => 3
  | .illegalCmd     => 4
  | .noFrame        => 5

/-- The PHASE codes (10_state.md R22, R40). -/
def Phase.code : Phase → BitVec 3
  | .idle   => 0
  | .settle => 1
  | .shift  => 2
  | .drain  => 3
  | .rxwait => 4

/-- STATUS.BUSY: `hidden.phase ≠ IDLE` (10_state.md R39). -/
def Block.busy (b : Block) : Bool := b.phase != .idle

/-- The level of `dir`: 0 exactly while the phase is SETTLE, SHIFT or DRAIN (10_state.md R41, 42_transport.md R170). -/
def Phase.dir : Phase → Bool
  | .idle   => true
  | .settle => false
  | .shift  => false
  | .drain  => false
  | .rxwait => true

/-- The level of `dir`; STATUS.DIR always equals it (10_state.md R41). -/
def Block.dir (b : Block) : Bool := b.phase.dir

/-- The level of `irq`: `STATUS.DONE ∧ CTRL.IRQ_EN` (60_exceptions.md R250). -/
def Block.irq (b : Block) : Bool := b.done && b.irqEn

/-- One bit of a register. -/
def bit (x : Bool) : BitVec 1 := BitVec.ofBool x

/-- The STATUS word, fields from bit 31 down, reserved bits 0 (10_state.md R22). -/
def Block.statusWord (b : Block) : Word :=
  0#13 ++ b.phase.code ++ b.rxcnt ++ 0#3 ++ bit b.busyWr ++ bit b.rxDrop ++ bit b.dir ++ bit b.valid
    ++ b.result.code ++ bit b.done ++ bit b.busy

/-- The CTRL word: PORT_EN in bit 0, IRQ_EN in bit 1 (10_state.md R21). -/
def Block.ctrlWord (b : Block) : Word := 0#30 ++ bit b.irqEn ++ bit b.portEn

/-- A write to STATUS: bits 1, 7 and 8 clear DONE, RX_DROP and BUSY_WR, and all other bits are ignored
(20_memory.md R64). Clearing DONE is the host's acknowledgement of a completion, the block's "return" (60_exceptions.md
R253). It acts while BUSY too (20_memory.md R65). -/
def Block.writeStatus (b : Block) (v : Word) : Block :=
  { b with
    done   := b.done && !v.getLsbD 1
    rxDrop := b.rxDrop && !v.getLsbD 7
    busyWr := b.busyWr && !v.getLsbD 8 }

/-- A write to CTRL: IRQ_EN always, PORT_EN only while not BUSY (20_memory.md R64, R65). -/
def Block.writeCtrl (b : Block) (v : Word) : Block :=
  { b with
    irqEn  := v.getLsbD 1
    portEn := if b.busy then b.portEn else v.getLsbD 0 }

/-- Set STATUS.BUSY_WR: a write was ignored because BUSY = 1 (20_memory.md R65). -/
def Block.markBusyWr (b : Block) : Block := { b with busyWr := true }

/-- `drop_char()`: set STATUS.RX_DROP and change nothing else (42_transport.md R180). -/
def Block.dropChar (b : Block) : Block := { b with rxDrop := true }

/-- The parity bit of the data bits `ds` (PRESUMED for even and odd, log 6). -/
def parityBits (p : Parity) (ds : List Bool) : List Bool :=
  match p with
  | .none => []
  | .even => [ds.foldl xor false]
  | .odd  => [!ds.foldl xor false]

/-- The levels of `txd` over one character: start bit 0, data bits, parity, stop bits 1 (42_transport.md R172). Where
CHAR_FORMAT has other than 8 data bits the rules do not say how a byte is carried: the line here carries the low `dataBits`
bits of it, zeros above bit 7, while the `txd` trace and the receiver keep the whole byte (DESIGN CHOICE, log 6). -/
def lineBits (f : CharFormat) (b : Byte) : List Bool :=
  let ds := (List.range f.dataBits).map b.getLsbD
  [false] ++ (if f.lsbFirst then ds else ds.reverse) ++ parityBits f.parity ds ++ List.replicate f.stopBits true

/-- The level of `txd` when `elapsed` ns of a character of `charNs` ns have passed; every bit lasts an equal share of
the character, and past its end the line is at mark (42_transport.md R172, R173; log 6). -/
def charLevel (f : CharFormat) (charNs : Nat) (b : Byte) (elapsed : Nat) : Bool :=
  (lineBits f b).getD (elapsed * (lineBits f b).length / charNs) true

/-- The level of `txd` at time `now`: mark outside SHIFT, the character TXBUF[tx_idx] that began `charNs` before
`t_dead` during it (10_state.md R41, 42_transport.md R173). -/
def Block.txd (b : Block) (p : Params) (now : Nat) : Bool :=
  match b.phase with
  | .shift  => charLevel p.charFormat p.charNs (bufGet b.txbuf b.txIdx) (now - (b.tDead - p.charNs))
  | .idle   => true
  | .settle => true
  | .drain  => true
  | .rxwait => true

/-- BAUD agrees with the character time: `T_CHAR_NS = bits_per_char * 10^9 / BAUD` (00_scope.md R5). BAUD is informative
only, so no operation reads it. -/
def baudFits (p : Params) : Prop := p.charNs * p.baud = (lineBits p.charFormat 0).length * 10 ^ 9

end Sys2Proof.Machine
end

