-- ==== Sys2Proof/Machine/Ops.lean ====
section
/-! DEFINITION. The named operations over the block's registers and hidden fields that the commands, the Engine and the
host port share: acceptance and completion of a command (30_encoding.md R95, 60_exceptions.md R241), reset
(70_reset_and_hazards.md R270), timed phases (42_transport.md), the codec's register moves (41_codec.md R146, R147) and
the register window (20_memory.md R63 to R65). -/

namespace Sys2Proof.Machine

/-- Change the block and nothing else. -/
def State.mapBlock (f : Block → Block) (s : State) : State := { s with block := f s.block }

/-- The block as the outside sees it: at its reset values for as long as `rst_n` is 0 (70_reset_and_hazards.md R270). -/
def State.view (s : State) : Block := if s.rstN then s.block else Block.reset

/-- The level of the output `dir` (10_state.md R41). -/
def State.dir (s : State) : Bool := s.view.dir

/-- The level of the output `irq` (60_exceptions.md R250). -/
def State.irq (s : State) : Bool := s.view.irq

/-- The level of the output `txd` (10_state.md R41). -/
def State.txd (s : State) : Bool := s.view.txd s.params s.now

/-! Completion, the block's counterpart of taking an exception, and acceptance. -/

/-- `complete(code)` (60_exceptions.md R241): the block's "trap entry" (60_exceptions.md R253). It saves the result
code, sets DONE, and the phase returns to IDLE, so BUSY is 0 and `dir` is 1. -/
def Block.complete (code : Result) (b : Block) : Block :=
  { b with phase := .idle, op := .none, result := code, done := true }

/-- Acceptance of a command: DONE and RESULT are cleared (30_encoding.md R95). -/
def Block.accept (b : Block) : Block := { b with done := false, result := .ok }

/-- The frame of every command (30_encoding.md R95, 60_exceptions.md R252): no effect while reset is held, ignored with
BUSY_WR set while BUSY, otherwise accepted; then an illegal operand completes with ILLEGAL_CMD and nothing else, and a
legal one runs the command's own `body`. -/
def command (isLegal : Bool) (body : State → State) (s : State) : State :=
  if s.rstN = false then s
  else if s.block.busy then s.mapBlock Block.markBusyWr
  else if isLegal then body (s.mapBlock Block.accept)
  else s.mapBlock fun b => b.accept.complete .illegalCmd

/-- A command that ends inside its own write access: it changes the block alone (20_memory.md R70). -/
def immediate (isLegal : Bool) (f : Block → Block) (s : State) : State := command isLegal (State.mapBlock f) s

/-- A bus command completes with TRANSPORT_ERROR, and does nothing else, while the port is closed
(60_exceptions.md R244). -/
def withPort (body : State → State) (s : State) : State :=
  if s.block.portEn then body s else s.mapBlock (Block.complete .transportError)

/-! Timed phases. -/

/-- How much longer than its register says the next timed phase lasts: 0 at the default of TIMER_SLACK_NS, otherwise a
free value of at most TIMER_SLACK_NS (92_eei_decisions.md D12, log 4). -/
def State.slack (s : State) : Nat :=
  match s.params.timerSlackNs with
  | 0     => 0
  | k + 1 => Config.timerJitter s.draws % (k + 2)

/-- The deadline of a phase of `us` µs that starts now: `now + 1000 * us` (42_transport.md R174, R176, R178). -/
def State.deadline (s : State) (us : BitVec 24) : Nat := s.now + 1000 * us.toNat + s.slack

/-- Move the sequencer to a phase with a deadline (00_scope.md R7). -/
def Block.enter (p : Phase) (deadline : Nat) (b : Block) : Block := { b with phase := p, tDead := deadline }

/-- Set `hidden.op`, the bus command in progress (10_state.md R38). -/
def Block.setOp (op : BusOp) (b : Block) : Block := { b with op := op }

/-- Set `hidden.tx_idx`, the index of the TXBUF byte being shifted out (10_state.md R38). -/
def Block.setTxIdx (k : Nat) (b : Block) : Block := { b with txIdx := k }

/-- Clear RXBUF and RXCNT for a window of n bytes that opens at time t (42_transport.md R178). -/
def Block.openWindow (n t : Nat) (b : Block) : Block := { b with rxbuf := bufZero, rxcnt := 0, rxN := n, tOpen := t }

/-- Start a timed phase of `us` µs. The draw of its slack is used up. -/
def State.startPhase (p : Phase) (us : BitVec 24) (s : State) : State :=
  { s with block := s.block.enter p (s.deadline us), draws := s.draws + 1 }

/-- `begin_send()` for the bus command `op`: SETTLE begins, so `dir` falls now (42_transport.md R174). -/
def beginSend (op : BusOp) (s : State) : State :=
  (s.mapBlock (Block.setOp op)).startPhase .settle s.block.tSettle

/-- `open_rx(n)`: clear RXBUF and RXCNT and open a receive window for n bytes (42_transport.md R178). -/
def openRx (n : Nat) (s : State) : State :=
  (s.mapBlock (Block.openWindow n s.now)).startPhase .rxwait s.block.tRxto

/-- `emit_char(b)` at the current instant: the character enters the `txd` trace (42_transport.md R173). -/
def State.emitChar (b : Byte) (s : State) : State :=
  { s with obs := { s.obs with txdTrace := s.obs.txdTrace ++ [{ byte := b, start := s.now, truncated := none }] } }

/-! The codec's register moves, shared by the codec commands and the transactions. -/

/-- `encode_into_txbuf(n)` (41_codec.md R146): the wire bytes of the frame in TXF go to TXBUF, zeros past them, and
TXLEN and CRC are set. -/
def Block.encodeIntoTxbuf (v : CrcVariant) (n : Nat) (b : Block) : Block :=
  { b with
    txbuf := bufOf fun k => (encodeBytes (b.txFrame v n)).getD k 0
    txlen := BitVec.ofNat 4 (n + 4)
    crc   := (b.txFrame v n).crc }

/-- Write the CRC register (10_state.md R25). -/
def Block.setCrc (c : Half) (b : Block) : Block := { b with crc := c }

/-- Write STATUS.VALID, the outcome of a CRC check (10_state.md R22). -/
def Block.setValid (v : Bool) (b : Block) : Block := { b with valid := v }

/-- `clear_rxf()` (41_codec.md R147). -/
def Block.clearRxf (b : Block) : Block := { b with rxf := rxFieldsZero, dlen := 0, valid := false }

/-- `load_rxf(L)` for the frame decoded at total length L (41_codec.md R147): VALID becomes 0, not yet checked. -/
def Block.loadRxf (len : Nat) (f : Frame) (b : Block) : Block :=
  { b with rxf := rxFieldsOf f, dlen := BitVec.ofNat 3 (len - 4), valid := false }

/-! Reset. -/

/-- The last character of the `txd` trace cut off at time t (70_reset_and_hazards.md R271). -/
def truncateLast (t : Nat) : List TxChar → List TxChar
  | []           => []
  | [c]          => [{ c with truncated := some t }]
  | c :: d :: cs => c :: truncateLast t (d :: cs)

/-- A character is on the wire: the phase is SHIFT and its end lies ahead. -/
def State.charOnWire (s : State) : Bool := s.view.phase == .shift && decide (s.now < s.block.tDead)

/-- The effect of `rst_n` going to `level` (70_reset_and_hazards.md R270, R271): at 0 the block takes its reset values at
once, with no completion, and a character on the wire is cut off; at 1 the block is released. -/
def State.setRst (level : Bool) (s : State) : State :=
  if level then { s with rstN := true }
  else
    { s with
      rstN  := false
      block := Block.reset
      obs   := { s.obs with
        txdTrace := if s.charOnWire then truncateLast s.now s.obs.txdTrace else s.obs.txdTrace } }

/-! The register window (20_memory.md). -/

/-- `MemRead`: the value of a register, assembled from its fields, reserved bits 0 (20_memory.md R63, 10_state.md R21
to R36). CMD reads 0 (10_state.md R24). -/
def Block.readReg (b : Block) : Reg → Word
  | .ctrl    => b.ctrlWord
  | .status  => b.statusWord
  | .cmd     => 0
  | .crc     => b.crc.setWidth 32
  | .txf0    => ofLanes b.txf.addr b.txf.cmd b.txf.d0 b.txf.d1
  | .txf1    => ofLanes b.txf.d2 b.txf.d3 0 0
  | .txb0    => bufWord0 b.txbuf
  | .txb1    => bufWord1 b.txbuf
  | .txlen   => b.txlen.setWidth 32
  | .rxb0    => bufWord0 b.rxbuf
  | .rxb1    => bufWord1 b.rxbuf
  | .rxf0    => ofLanes b.rxf.addr b.rxf.cmd b.rxf.d0 b.rxf.d1
  | .rxf1    => ofLanes b.rxf.d2 b.rxf.d3 (crcLo b.rxf.crc) (crcHi b.rxf.crc)
  | .rxinfo  => b.dlen.setWidth 32
  | .tSettle => b.tSettle.setWidth 32
  | .tDrain  => b.tDrain.setWidth 32
  | .tRxto   => b.tRxto.setWidth 32

/-- The value at an aligned offset of the window; reserved offsets read 0 (20_memory.md R62). -/
def Block.readOffset (b : Block) (off : Offset) : Word :=
  match regAt off with
  | some r => b.readReg r
  | none   => 0

/-- A write to TXF0 (20_memory.md R64). -/
def Block.writeTxf0 (v : Word) (b : Block) : Block :=
  { b with txf := { b.txf with addr := lane v 0, cmd := lane v 1, d0 := lane v 2, d1 := lane v 3 } }

/-- A write to TXF1 (20_memory.md R64). -/
def Block.writeTxf1 (v : Word) (b : Block) : Block := { b with txf := { b.txf with d2 := lane v 0, d3 := lane v 1 } }

/-- A write of TXBUF, whole (20_memory.md R64). -/
def Block.setTxbuf (x : Buf) (b : Block) : Block := { b with txbuf := x }

/-- A write to TXLEN (20_memory.md R64). -/
def Block.setTxlen (n : BitVec 4) (b : Block) : Block := { b with txlen := n }

/-- A write to T_SETTLE (20_memory.md R64). -/
def Block.setSettle (t : BitVec 24) (b : Block) : Block := { b with tSettle := t }

/-- A write to T_DRAIN (20_memory.md R64). -/
def Block.setDrain (t : BitVec 24) (b : Block) : Block := { b with tDrain := t }

/-- A write to T_RXTO (20_memory.md R64). -/
def Block.setRxto (t : BitVec 24) (b : Block) : Block := { b with tRxto := t }

/-- A write of an operand or timing register: refused with BUSY_WR set while BUSY (20_memory.md R65). -/
def Block.guarded (b : Block) (w : Block → Block) : Block := if b.busy then b.markBusyWr else w b

/-- `MemWrite` to a register other than CMD (20_memory.md R64, R65); read-only registers ignore it. A write to CMD is a
command and is not handled here, so it leaves the block as it is. -/
def Block.writeReg (b : Block) (r : Reg) (v : Word) : Block :=
  match r with
  | .ctrl    => b.writeCtrl v
  | .status  => b.writeStatus v
  | .cmd     => b
  | .crc     => b
  | .txf0    => b.guarded (Block.writeTxf0 v)
  | .txf1    => b.guarded (Block.writeTxf1 v)
  | .txb0    => b.guarded (Block.setTxbuf (bufWithWord0 b.txbuf v))
  | .txb1    => b.guarded (Block.setTxbuf (bufWithWord1 b.txbuf v))
  | .txlen   => b.guarded (Block.setTxlen (v.extractLsb' 0 4))
  | .rxb0    => b
  | .rxb1    => b
  | .rxf0    => b
  | .rxf1    => b
  | .rxinfo  => b
  | .tSettle => b.guarded (Block.setSettle (v.extractLsb' 0 24))
  | .tDrain  => b.guarded (Block.setDrain (v.extractLsb' 0 24))
  | .tRxto   => b.guarded (Block.setRxto (v.extractLsb' 0 24))

end Sys2Proof.Machine
end

