-- ==== Sys2Proof/Machine/Transactions.lean ====
section
/-! DEFINITION. The meanings of the transaction commands REG_XACT and COIL_XACT at acceptance (43_transactions.md R210,
R213), and `finish_xact`, which ends both (43_transactions.md R212). -/

namespace Sys2Proof.Machine

/-- Encode a frame of n data bytes from TXF and begin to send it; nothing changes while the port is closed
(43_transactions.md R210, R213). -/
def doTransaction (op : BusOp) (n : Nat) (s : State) : State :=
  withPort (fun s => beginSend op (s.mapBlock (Block.encodeIntoTxbuf s.params.crcVariant n))) s

/-- REG_XACT: a register transaction, 4 data bytes (43_transactions.md R210). -/
def execRegXact (s : State) : Host.Outcome State Fault Refusal := .next (command true (doTransaction .regXact 4) s)

/-- COIL_XACT: a coil transaction, 2 data bytes (43_transactions.md R213). -/
def execCoilXact (s : State) : Host.Outcome State Fault Refusal := .next (command true (doTransaction .coilXact 2) s)

/-- `finish_xact()` (43_transactions.md R212): the length check, then the CRC check, as a hard boundary. On a failure RXF
is cleared; RXBUF keeps the raw bytes; on SHORT_READ the CRC register keeps the request CRC. -/
def Block.finishXact (v : CrcVariant) (b : Block) : Block :=
  match decodeBytes b.rxBytes b.rxN with
  | .shortRead => b.clearRxf.complete .shortRead
  | .frame f   =>
    let c := frameCrc v f.addr f.cmd f.data
    if c = f.crc then (((b.loadRxf b.rxN f).setCrc c).setValid true).complete .ok
    else (b.setCrc c).clearRxf.complete .crcMismatch

end Sys2Proof.Machine
end

