-- ==== Sys2Proof/Machine/Engine.lean ====
section
/-! DEFINITION. The Engine's timed steps and the receiver (42_transport.md R175 to R183, R186): what a bus command does
after its acceptance. -/

namespace Sys2Proof.Machine

/-- Put TXBUF[k] on the wire now: SHIFT, with the character's end as the deadline (42_transport.md R175, R176). -/
def shiftOut (k : Nat) (s : State) : State :=
  (s.emitChar (bufGet s.block.txbuf k)).mapBlock fun b => (b.setTxIdx k).enter .shift (s.now + s.params.charNs)

/-- End of settle: the first character starts now (42_transport.md R175). -/
def endSettle (s : State) : State := shiftOut 0 s

/-- End of a character: the next one follows back to back, or the drain begins (42_transport.md R176). -/
def endChar (s : State) : State :=
  if s.block.txIdx + 1 < s.block.txlen.toNat then shiftOut (s.block.txIdx + 1) s
  else (s.mapBlock (Block.setTxIdx (s.block.txIdx + 1))).startPhase .drain s.block.tDrain

/-- End of drain: `dir` returns to 1, and the command completes or opens its receive window (42_transport.md R177,
43_transactions.md R211, R214). No rule names a DRAIN of another command (log 18). -/
def endDrain (s : State) : Host.Outcome State Fault Refusal :=
  match s.block.op with
  | .send     => .next (s.mapBlock (Block.complete .ok))
  | .regXact  => .next (openRx 7 s)
  | .coilXact => .next (openRx 6 s)
  | .none     => .fault .noEngineRule
  | .receive  => .fault .noEngineRule

/-- `close_rx()`: the window closes and the receive returns (42_transport.md R183, R185; 43_transactions.md R212). No
rule names a window of another command (log 18). -/
def closeRx (s : State) : Host.Outcome State Fault Refusal :=
  match s.block.op with
  | .receive  => .next (s.mapBlock (Block.complete .ok))
  | .regXact  => .next (s.mapBlock (Block.finishXact s.params.crcVariant))
  | .coilXact => .next (s.mapBlock (Block.finishXact s.params.crcVariant))
  | .none     => .fault .noEngineRule
  | .send     => .fault .noEngineRule

/-- One Engine step, taken at the deadline of the present phase (00_scope.md R8; 42_transport.md R175, R176, R177, R182).
The Engine has no step in IDLE. -/
def engineStep (s : State) : Host.Outcome State Fault Refusal :=
  match s.block.phase with
  | .settle => .next (endSettle s)
  | .shift  => .next (endChar s)
  | .drain  => endDrain s
  | .rxwait => closeRx s
  | .idle   => .fault .noEngineRule

/-- A character that ends now lies wholly inside the open window and before its deadline (42_transport.md R179). -/
def charFits (s : State) : Bool :=
  s.block.phase == .rxwait && decide (s.block.tOpen + s.params.charNs ≤ s.now) && decide (s.now < s.block.tDead)

/-- Store a received byte at RXBUF[RXCNT] (42_transport.md R179). -/
def Block.storeChar (x : Byte) (b : Block) : Block :=
  { b with rxbuf := bufSet b.rxbuf b.rxcnt.toNat x, rxcnt := b.rxcnt + 1 }

/-- `rx_char(b)`: a character of value x ends now (42_transport.md R179 to R181): stored, closing the window when it is
the last one awaited, or dropped. -/
def rxChar (x : Byte) (s : State) : Host.Outcome State Fault Refusal :=
  if charFits s then
    let t := s.mapBlock (Block.storeChar x)
    if t.block.rxcnt.toNat = t.block.rxN then closeRx t else .next t
  else .next (s.mapBlock Block.dropChar)

/-- A Bus step: deliver a character. While reset is held it is discarded and sets nothing (70_reset_and_hazards.md R272).
The byte of a character with a framing or parity error is a free value (42_transport.md R186). -/
def deliver (c : Option Byte) (s : State) : Host.Outcome State Fault Refusal :=
  if s.rstN = false then .next s
  else match c with
    | some x => rxChar x s
    | none   => rxChar (Config.badCharByte s.draws) { s with draws := s.draws + 1 }

end Sys2Proof.Machine
end

