-- ==== Sys2Proof/Syntax.lean ====
section
/-! DEFINITION. The nine commands of the block, one constructor for each row of spec/opcode_table.json
(30_encoding.md R91, R100). An operand is kept at the width of its field in the command word (30_encoding.md R90). -/

namespace Sys2Proof

/-- A command. The value operands are BYTE (bits 15:8, 30_encoding.md R92) and N (bits 19:16, 30_encoding.md R93);
address, command, data and send length come from the operand registers, not from the word. -/
inductive Instr where
  /-- CRC_INIT (40_crc.md R123). -/
  | crcInit
  /-- CRC_FEED b (40_crc.md R124). -/
  | crcFeed (b : Byte)
  /-- ENCODE n, n the data length DLEN (41_codec.md R146). -/
  | encode (n : BitVec 4)
  /-- DECODE L, L the expected total length (41_codec.md R147). -/
  | decode (len : BitVec 4)
  /-- VALIDATE (41_codec.md R148). -/
  | validate
  /-- SEND (42_transport.md R174). -/
  | send
  /-- RECEIVE n, n the byte count (42_transport.md R184). -/
  | receive (n : BitVec 4)
  /-- REG_XACT (43_transactions.md R210). -/
  | regXact
  /-- COIL_XACT (43_transactions.md R213). -/
  | coilXact
deriving DecidableEq, Repr

end Sys2Proof
end

