-- ==== Sys2Proof/WellFormed.lean ====
section
/-! DEFINITION. Which commands an assembler may emit: the operand ranges of 30_encoding.md R100. -/

namespace Sys2Proof

/-- The operand is in the range 30_encoding.md R100 gives it. Every other command has no constrained operand. -/
def Instr.wf : Instr → Bool
  | .crcInit   => true
  | .crcFeed _ => true
  | .encode n  => n == 2 || n == 3 || n == 4
  | .decode l  => l == 6 || l == 7 || l == 8
  | .validate  => true
  | .send      => true
  | .receive n => decide (1 ≤ n.toNat ∧ n.toNat ≤ 8)
  | .regXact   => true
  | .coilXact  => true

end Sys2Proof
end

