-- ==== Sys2Proof/Decode.lean ====
section
/-! DEFINITION. The command decoder of 30_encoding.md R90 to R95, total on all 2^32 words, and the encoder of R100.
A word that is not legal is rejected under a name; every rejection completes with ILLEGAL_CMD in the machine (R95). -/

namespace Sys2Proof

/-- Why a command word is not legal: one name for each clause of 30_encoding.md R94. -/
inductive Reject where
  /-- bits [7:4] are not 0 -/
  | lowMustBeZero
  /-- bits [31:20] are not 0 -/
  | highMustBeZero
  /-- OP is 0x0 or 0xA to 0xF -/
  | reservedOp
  /-- BYTE is not 0 and OP is not CRC_FEED -/
  | byteOperand
  /-- N is not 0 and OP is not ENCODE, DECODE or RECEIVE -/
  | lengthOperand
  /-- N is outside the range of ENCODE, DECODE or RECEIVE -/
  | lengthRange
deriving DecidableEq, Repr

/-- OP, bits [3:0] (30_encoding.md R90). -/
def opField (v : Word) : BitVec 4 := v.extractLsb' 0 4

/-- Bits [7:4], which must be 0 (30_encoding.md R90). -/
def lowZeroField (v : Word) : BitVec 4 := v.extractLsb' 4 4

/-- BYTE, bits [15:8] (30_encoding.md R92). -/
def byteField (v : Word) : Byte := v.extractLsb' 8 8

/-- N, bits [19:16] (30_encoding.md R93). -/
def lengthField (v : Word) : BitVec 4 := v.extractLsb' 16 4

/-- Bits [31:20], which must be 0 (30_encoding.md R90). -/
def highZeroField (v : Word) : BitVec 12 := v.extractLsb' 20 12

/-- ENCODE accepts DLEN 2, 3 or 4 (30_encoding.md R94). -/
def dataLenLegal (n : BitVec 4) : Bool := n == 2 || n == 3 || n == 4

/-- DECODE accepts a total length of 6, 7 or 8 (30_encoding.md R94). -/
def totalLenLegal (n : BitVec 4) : Bool := n == 6 || n == 7 || n == 8

/-- RECEIVE accepts a count of 1 to 8 (30_encoding.md R94). -/
def countLegal (n : BitVec 4) : Bool := 1 ≤ n && n ≤ 8

/-- `legal(v)`, clause by clause as 30_encoding.md R94 writes it. The decoder below does not call it: the two are
written separately and a statement says that they agree. -/
def legal (v : Word) : Bool :=
  lowZeroField v == 0 && highZeroField v == 0
    && (1 ≤ opField v && opField v ≤ 9)
    && (opField v == 2 || byteField v == 0)
    && (opField v == 3 || opField v == 4 || opField v == 7 || lengthField v == 0)
    && (opField v != 3 || dataLenLegal (lengthField v))
    && (opField v != 4 || totalLenLegal (lengthField v))
    && (opField v != 7 || countLegal (lengthField v))

/-- A command with neither BYTE nor N (30_encoding.md R94: both must be 0). -/
def plainCommand (v : Word) (i : Instr) : Except Reject Instr :=
  if byteField v ≠ 0 then .error .byteOperand
  else if lengthField v ≠ 0 then .error .lengthOperand
  else .ok i

/-- A command with the operand BYTE (30_encoding.md R94: N must be 0). -/
def byteCommand (v : Word) (i : Byte → Instr) : Except Reject Instr :=
  if lengthField v ≠ 0 then .error .lengthOperand else .ok (i (byteField v))

/-- A command with the operand N (30_encoding.md R94: BYTE must be 0 and N in range). -/
def lengthCommand (v : Word) (inRange : BitVec 4 → Bool) (i : BitVec 4 → Instr) : Except Reject Instr :=
  if byteField v ≠ 0 then .error .byteOperand
  else if inRange (lengthField v) then .ok (i (lengthField v))
  else .error .lengthRange

/-- The opcode map (30_encoding.md R91), with OP values 0 and 10 to 15 reserved. -/
def decodeOp (v : Word) : Except Reject Instr :=
  match (opField v).toNat with
  | 1 => plainCommand v .crcInit
  | 2 => byteCommand v .crcFeed
  | 3 => lengthCommand v dataLenLegal .encode
  | 4 => lengthCommand v totalLenLegal .decode
  | 5 => plainCommand v .validate
  | 6 => plainCommand v .send
  | 7 => lengthCommand v countLegal .receive
  | 8 => plainCommand v .regXact
  | 9 => plainCommand v .coilXact
  | _ => .error .reservedOp

/-- The decoder, total on every 32-bit word (30_encoding.md R95, R96). -/
def decodeWord (v : Word) : Except Reject Instr :=
  if lowZeroField v ≠ 0 then .error .lowMustBeZero
  else if highZeroField v ≠ 0 then .error .highMustBeZero
  else decodeOp v

/-- A command word from its fields, in the layout of 30_encoding.md R90. -/
def commandWord (op : BitVec 4) (b : Byte) (n : BitVec 4) : Word :=
  (0#12 ++ n ++ b ++ 0#4 ++ op)

/-- The word a command mnemonic stands for (30_encoding.md R100). -/
def encodeWord : Instr → Word
  | .crcInit   => commandWord 1 0 0
  | .crcFeed b => commandWord 2 b 0
  | .encode n  => commandWord 3 0 n
  | .decode l  => commandWord 4 0 l
  | .validate  => commandWord 5 0 0
  | .send      => commandWord 6 0 0
  | .receive n => commandWord 7 0 n
  | .regXact   => commandWord 8 0 0
  | .coilXact  => commandWord 9 0 0

/-- The command read from a table word: a command word is one 32-bit word, written to CMD whole (30_encoding.md R96),
so bit 0 of the table is bit 0 of the word and any bit at or above `nbits` is 0. -/
def decodeTableWord (nbits w : Nat) : Option Instr :=
  match decodeWord (BitVec.ofNat 32 (w % 2 ^ nbits)) with
  | .ok i    => some i
  | .error _ => none

end Sys2Proof
end

