-- ==== Sys2Proof/Machine/Codec.lean ====
section
/-! DEFINITION. The meanings of the codec commands ENCODE, DECODE and VALIDATE (41_codec.md section 2). -/

namespace Sys2Proof.Machine

/-- `do_ENCODE(n)` (41_codec.md R146). -/
def doEncode (v : CrcVariant) (n : Nat) (b : Block) : Block := (b.encodeIntoTxbuf v n).complete .ok

/-- ENCODE n (41_codec.md R146); an n outside 2 to 4 is ILLEGAL_CMD (30_encoding.md R95). -/
def execEncode (n : BitVec 4) (s : State) : Host.Outcome State Fault Refusal :=
  .next (immediate (dataLenLegal n) (doEncode s.params.crcVariant n.toNat) s)

/-- `do_DECODE(L)` (41_codec.md R147): SHORT_READ and a cleared RXF when RXCNT < L, otherwise the frame. -/
def doDecode (len : Nat) (b : Block) : Block :=
  match decodeBytes b.rxBytes len with
  | .shortRead => b.clearRxf.complete .shortRead
  | .frame f   => (b.loadRxf len f).complete .ok

/-- DECODE L (41_codec.md R147); an L outside 6 to 8 is ILLEGAL_CMD (30_encoding.md R95). -/
def execDecode (len : BitVec 4) (s : State) : Host.Outcome State Fault Refusal :=
  .next (immediate (totalLenLegal len) (doDecode len.toNat) s)

/-- `do_VALIDATE` (41_codec.md R148): NO_FRAME when none is held; otherwise the CRC is recomputed into CRC and compared.
RXF is kept on a mismatch. -/
def doValidate (v : CrcVariant) (b : Block) : Block :=
  if b.dlen = 0 then (b.setValid false).complete .noFrame
  else
    let c := frameCrc v b.rxf.addr b.rxf.cmd (b.rxf.data b.dlen.toNat)
    if c = b.rxf.crc then ((b.setCrc c).setValid true).complete .ok
    else ((b.setCrc c).setValid false).complete .crcMismatch

/-- VALIDATE (41_codec.md R148). -/
def execValidate (s : State) : Host.Outcome State Fault Refusal :=
  .next (immediate true (doValidate s.params.crcVariant) s)

end Sys2Proof.Machine
end

