-- ==== Sys2Proof/Machine/Generator.lean ====
section
/-! DEFINITION. The meanings of the CRC generator commands CRC_INIT and CRC_FEED (40_crc.md section 2). -/

namespace Sys2Proof.Machine

/-- `do_CRC_INIT` (40_crc.md R123). -/
def doCrcInit (b : Block) : Block := (b.setCrc crcInitValue).complete .ok

/-- CRC_INIT (40_crc.md R123). -/
def execCrcInit (s : State) : Host.Outcome State Fault Refusal := .next (immediate true doCrcInit s)

/-- `do_CRC_FEED(b)` (40_crc.md R124). -/
def doCrcFeed (v : CrcVariant) (x : Byte) (b : Block) : Block := (b.setCrc (crcUpdate v b.crc x)).complete .ok

/-- CRC_FEED b (40_crc.md R124). -/
def execCrcFeed (x : Byte) (s : State) : Host.Outcome State Fault Refusal :=
  .next (immediate true (doCrcFeed s.params.crcVariant x) s)

end Sys2Proof.Machine
end

