-- ==== Sys2Proof/Machine/Transport.lean ====
section
/-! DEFINITION. The meanings of the transport commands SEND and RECEIVE at acceptance (42_transport.md R174, R184); what
follows in time are the Engine's and the Bus's steps in Machine/Engine.lean. -/

namespace Sys2Proof.Machine

/-- `do_SEND` (42_transport.md R174): the TXLEN check comes before the port check (60_exceptions.md R252). -/
def doSend (s : State) : State :=
  if txlenLegal s.block.txlen then withPort (beginSend .send) s
  else s.mapBlock (Block.complete .illegalCmd)

/-- SEND (42_transport.md R174). -/
def execSend (s : State) : Host.Outcome State Fault Refusal := .next (command true doSend s)

/-- `do_RECEIVE(n)` (42_transport.md R184). -/
def doReceive (n : Nat) (s : State) : State :=
  withPort (fun s => openRx n (s.mapBlock (Block.setOp .receive))) s

/-- RECEIVE n (42_transport.md R184); an n outside 1 to 8 is ILLEGAL_CMD (30_encoding.md R95). -/
def execReceive (n : BitVec 4) (s : State) : Host.Outcome State Fault Refusal :=
  .next (command (countLegal n) (doReceive n.toNat) s)

end Sys2Proof.Machine
end

