-- ==== Sys2Proof/Machine/Dispatch.lean ====
section
/-! DEFINITION. The meaning of each command, one arm for each row of spec/opcode_table.json (30_encoding.md R91, R95). -/

namespace Sys2Proof.Machine

def exec (i : Instr) (s : State) : Host.Outcome State Fault Refusal :=
  match i with
  | .crcInit => Sys2Proof.Machine.execCrcInit s
  | .crcFeed b => Sys2Proof.Machine.execCrcFeed b s
  | .encode n => Sys2Proof.Machine.execEncode n s
  | .decode len => Sys2Proof.Machine.execDecode len s
  | .validate => Sys2Proof.Machine.execValidate s
  | .send => Sys2Proof.Machine.execSend s
  | .receive n => Sys2Proof.Machine.execReceive n s
  | .regXact => Sys2Proof.Machine.execRegXact s
  | .coilXact => Sys2Proof.Machine.execCoilXact s

end Sys2Proof.Machine
end

