-- ==== Sys2Proof/Machine/HostPort.lean ====
section
/-! DEFINITION. The host port: `command_write` (30_encoding.md R95) and the admitted and refused accesses of the register
window (20_memory.md R61 to R65; 70_reset_and_hazards.md R272). -/

namespace Sys2Proof.Machine

/-- `command_write(v)` (30_encoding.md R95), total on all words: a legal word runs its command, any other word goes
through the same acceptance and completes with ILLEGAL_CMD. -/
def commandWrite (v : Word) (s : State) : Host.Outcome State Fault Refusal :=
  match decodeWord v with
  | .ok i    => exec i s
  | .error _ => .next (command false id s)

/-- An admitted `MemWrite` (20_memory.md R64): a write to CMD is a command, a write to a reserved offset does nothing
(20_memory.md R62), and no write has an effect while reset is held (70_reset_and_hazards.md R272). -/
def writeOffset (off : Offset) (v : Word) (s : State) : Host.Outcome State Fault Refusal :=
  if s.rstN = false then .next s
  else match regAt off with
    | some .cmd => commandWrite v s
    | some r    => .next (s.mapBlock fun b => b.writeReg r v)
    | none      => .next s

/-- The host observes a read value (00_scope.md R11). -/
def State.observe (v : Word) (s : State) : State := { s with obs := { s.obs with reads := s.obs.reads ++ [v] } }

/-- A host read of `size` bytes: refused with BusError unless admitted, else the register's value and no other effect
(20_memory.md R61, R63). While reset is held it returns the reset value (70_reset_and_hazards.md R272). -/
def hostRead (off : Offset) (size : Nat) (s : State) : Host.Outcome State Fault Refusal :=
  if admitted off size then .next (s.observe (s.view.readOffset off)) else .fault (.busError off)

/-- A host write of `size` bytes: without effect while reset is held, which comes first in the order of checks
(60_exceptions.md R252, log 11), else refused with BusError unless admitted (20_memory.md R61). -/
def hostWrite (off : Offset) (size : Nat) (v : Word) (s : State) : Host.Outcome State Fault Refusal :=
  if s.rstN = false then .next s
  else if admitted off size then writeOffset off v s
  else .fault (.busError off)

/-- The gap to the next STATUS read of a POLL_DONE loop: the next one of `env.polls`, a free value of at least 1 ns where
that says nothing (log 14). -/
def State.pollGap (s : State) : Nat := s.env.polls.headD (Config.pollGap s.draws + 1)

/-- The host goes round the loop of POLL_DONE: the statement stands again at the head of the program, to read after the
gap (30_encoding.md R101). -/
def State.pollAgain (s : State) : State :=
  { s with
    draws := s.draws + 1
    env := { s.env with
      host := .pollDone (s.now + s.pollGap) :: s.env.host
      polls := s.env.polls.tail } }

/-- One turn of POLL_DONE: `L: RD STATUS -> s; if s[1] = 0 goto L` (30_encoding.md R101). -/
def hostPoll (s : State) : Host.Outcome State Fault Refusal :=
  match hostRead (Reg.offset .status) 4 s with
  | .next t    => .next (if (s.view.readOffset (Reg.offset .status)).getLsbD 1 then t else t.pollAgain)
  | .fault f   => .fault f
  | .refused r => .refused r

/-- One statement of the host program (30_encoding.md R101), which has been taken off the program. AT has no effect of its
own. -/
def hostStmt (c : HostStmt) (s : State) : Host.Outcome State Fault Refusal :=
  match c with
  | .rd off size   => hostRead off size s
  | .wr off size v => hostWrite off size v s
  | .waitUntil _   => .next s
  | .pollDone _    => hostPoll s

end Sys2Proof.Machine
end

