-- ==== Sys2Proof/Machine/Agents.lean ====
section
/-! DEFINITION. Who takes the next step of the machine, and the step itself (00_scope.md R8 to R11): reset first, then a
due Engine step, then Bus or Host, then Time. -/

namespace Sys2Proof.Machine

/-- The next step's agent. `tie` says that Bus and Host were both ready. -/
inductive Action where
  | reset
  | engine
  | bus (tie : Bool)
  | host (tie : Bool)
  | time (t : Nat)
  | finished
deriving DecidableEq, Repr

/-- A level change of `rst_n` is due. -/
def State.resetDue (s : State) : Bool :=
  match s.env.rst with
  | []     => false
  | e :: _ => decide (e.time ≤ s.now)

/-- An Engine step is due: a command runs and its deadline is reached (00_scope.md R9). -/
def State.engineDue (s : State) : Bool := s.view.busy && decide (s.block.tDead ≤ s.now)

/-- A character ends now. -/
def State.busDue (s : State) : Bool :=
  match s.env.bus with
  | []     => false
  | c :: _ => decide (c.endTime ≤ s.now)

/-- The host's next statement can be taken now: an access at once, AT from its time on (log 15), the read of POLL_DONE from
its next time on, and at the first instant at which DONE is 1 (30_encoding.md R101; 95_test_vectors.md: "POLL_DONE returns
at the first instant at which DONE=1"; log 14). -/
def State.hostReady (s : State) : Bool :=
  match s.env.host with
  | []                => false
  | .rd _ _ :: _      => true
  | .wr _ _ _ :: _    => true
  | .waitUntil t :: _ => decide (t ≤ s.now)
  | .pollDone t :: _  => decide (t ≤ s.now) || s.view.done

/-- The instants at which something will happen by itself: the next level change of `rst_n`, the Engine's deadline, the
next character's end, the host's AT, the next read of its POLL_DONE. -/
def State.instants (s : State) : List Nat :=
  (s.env.rst.head?.map Edge.time).toList
    ++ (if s.view.busy then [s.block.tDead] else [])
    ++ (s.env.bus.head?.map BusChar.endTime).toList
    ++ (match s.env.host with
        | .waitUntil t :: _ => [t]
        | .pollDone t :: _  => [t]
        | _                 => [])

/-- The earliest of a list of instants. -/
def earliest : List Nat → Option Nat
  | []      => none
  | t :: ts =>
    match earliest ts with
    | none   => some t
    | some u => some (min t u)

/-- Who steps next (00_scope.md R8, R9). The spec does not order Bus against Host at one instant: `env.ties` says who goes
first, and the Bus does where it says nothing (log 9). Time passes only when nothing is due, and then to the earliest
instant at which something is, so never past a deadline. -/
def State.nextAction (s : State) : Action :=
  if s.resetDue then .reset
  else if s.engineDue then .engine
  else
    match s.busDue, s.hostReady with
    | true, true   => if s.env.ties.head? = some .host then .host true else .bus true
    | true, false  => .bus false
    | false, true  => .host false
    | false, false =>
      match earliest s.instants with
      | some t => .time t
      | none   => .finished

/-- Take the next entry off the tie order, where it decided. -/
def State.popTie (tie : Bool) (s : State) : State :=
  if tie then { s with env := { s.env with ties := s.env.ties.tail } } else s

/-- Take the next character off the bus script. -/
def State.popBus (s : State) : State := { s with env := { s.env with bus := s.env.bus.tail } }

/-- Take the next statement off the host program. -/
def State.popHost (s : State) : State := { s with env := { s.env with host := s.env.host.tail } }

/-- Take the next level change off the reset script. -/
def State.popRst (s : State) : State := { s with env := { s.env with rst := s.env.rst.tail } }

/-- The reset input's step (70_reset_and_hazards.md R270). -/
def resetStep (s : State) : Host.Outcome State Fault Refusal :=
  match s.env.rst with
  | []     => .next s
  | e :: _ => .next (s.popRst.setRst e.level)

/-- The Bus's step: deliver the next character of the script (00_scope.md R8). -/
def busStep (s : State) : Host.Outcome State Fault Refusal :=
  match s.env.bus with
  | []     => .next s
  | c :: _ => deliver c.byte s.popBus

/-- The Host's step: its next statement (00_scope.md R8). -/
def hostStep (s : State) : Host.Outcome State Fault Refusal :=
  match s.env.host with
  | []     => .fault .hostFinished
  | c :: _ => hostStmt c s.popHost

/-- Time's step: `now` advances to t (00_scope.md R9). -/
def timeStep (t : Nat) (s : State) : State := { s with now := t }

/-- What the chosen agent does. Nothing is left to do only when the host program is finished (00_scope.md R10 (c),
log 13). -/
def perform (a : Action) (s : State) : Host.Outcome State Fault Refusal :=
  match a with
  | .reset    => resetStep s
  | .engine   => engineStep s
  | .bus tie  => busStep (s.popTie tie)
  | .host tie => hostStep (s.popTie tie)
  | .time t   => .next (timeStep t s)
  | .finished => .fault .hostFinished

/-- An edge of a line between two levels, if they differ. -/
def edgeOf (before after : Bool) (t : Nat) : List Edge :=
  if before = after then [] else [{ time := t, level := after }]

/-- Record the level changes of `dir` and `irq` that the step from s to t made (00_scope.md R11, log 16). -/
def noteLines (s t : State) : State :=
  { t with
    obs := { t.obs with
      dirTrace := t.obs.dirTrace ++ edgeOf s.dir t.dir t.now
      irqTrace := t.obs.irqTrace ++ edgeOf s.irq t.irq t.now } }

/-- Note the lines of a next state; a fault has no successor (93_implementation_defined.md row 10). -/
def noteOutcome (s : State) : Host.Outcome State Fault Refusal → Host.Outcome State Fault Refusal
  | .next t    => .next (noteLines s t)
  | .fault f   => .fault f
  | .refused r => .refused r

/-- One step of the machine (00_scope.md R8, R10). -/
def takeStep (s : State) : Host.Outcome State Fault Refusal := noteOutcome s (perform s.nextAction s)

/-- Place a command word where the machine takes its next instruction: as the host program's next statement, a write of
the word to CMD, with the Host first if a character ends at this very instant (log 2). -/
def placeCommand (w : Word) (s : State) : State :=
  { s with
    env := { s.env with
      host := .wr (Reg.offset .cmd) 4 w :: s.env.host
      ties := if s.busDue then .host :: s.env.ties else s.env.ties } }

end Sys2Proof.Machine
end

