-- ==== Sys2Proof/Machine/Step.lean ====
section
/-! DEFINITION. The step of the machine and the placing of an instruction where the step takes its next one. Both only
call operations of Machine/Agents.lean. -/

namespace Sys2Proof.Machine

/-- One step: exactly one agent moves (00_scope.md R8). -/
def step (s : State) : Host.Outcome State Fault Refusal := takeStep s

/-- The state with the command word w, of `nbits` bits, placed as the host's next statement (log 2). -/
def State.withFetchWord (s : State) (nbits w : Nat) : State := placeCommand (BitVec.ofNat 32 (w % 2 ^ nbits)) s

end Sys2Proof.Machine
end

