-- ==== Sys2Proof/Safety.lean ====
section
/-! DEFINITION. What counts as a good state and a safe run, in the terms the statements use: the parts of the invariant
of the machine, the bound on a running command, and the levels the traces record. -/

namespace Sys2Proof.Machine

/-- A command can be accepted now: reset is released and no bus command runs (30_encoding.md R95). -/
def State.ready (s : State) : Bool := s.rstN && !s.block.busy

/-- A phase of the transmit sequence, while `dir` is 0 (10_state.md R41). -/
def Phase.sending : Phase → Bool
  | .idle   => false
  | .settle => true
  | .shift  => true
  | .drain  => true
  | .rxwait => false

/-- `phase` and `op` agree (10_state.md R38; 42_transport.md R174, R177, R184; 43_transactions.md R210, R213). -/
def Block.opFits (b : Block) : Prop :=
  match b.phase with
  | .idle   => b.op = .none
  | .settle => b.op = .send ∨ b.op = .regXact ∨ b.op = .coilXact
  | .shift  => b.op = .send ∨ b.op = .regXact ∨ b.op = .coilXact
  | .drain  => b.op = .send ∨ b.op = .regXact ∨ b.op = .coilXact
  | .rxwait => b.op = .receive ∨ b.op = .regXact ∨ b.op = .coilXact

/-- While a bus command runs it has no result yet, and the port it needs is open (30_encoding.md R95, 20_memory.md R65,
60_exceptions.md R244). -/
def Block.runningFits (b : Block) : Prop :=
  b.busy = true → b.done = false ∧ b.result = .ok ∧ b.portEn = true

/-- While a send runs, TXLEN is a legal length and the character on the wire is one of its bytes (42_transport.md R174,
R176). -/
def Block.sendFits (b : Block) : Prop :=
  (b.phase.sending = true → 1 ≤ b.txlen.toNat ∧ b.txlen.toNat ≤ 8)
    ∧ (b.phase = .shift → b.txIdx < b.txlen.toNat)

/-- The request of a running transaction stays the frame encoded from TXF (43_transactions.md R210, R213; 20_memory.md
R65). -/
def Block.requestFits (v : CrcVariant) (b : Block) : Prop :=
  (b.op = .regXact → b.encodeIntoTxbuf v 4 = b) ∧ (b.op = .coilXact → b.encodeIntoTxbuf v 2 = b)

/-- While a window is open it waits for 1 to 8 bytes, 7 for REG_XACT and 6 for COIL_XACT, and still lacks one
(42_transport.md R178, R179; 43_transactions.md R211, R214). -/
def Block.windowFits (b : Block) : Prop :=
  b.phase = .rxwait →
    b.rxcnt.toNat < b.rxN ∧ b.rxN ≤ 8 ∧ (b.op = .regXact → b.rxN = 7) ∧ (b.op = .coilXact → b.rxN = 6)

/-- RXCNT is at most 8 and the bytes of RXBUF from RXCNT on are 0 (10_state.md R22, R30). -/
def Block.rxbufFits (b : Block) : Prop :=
  b.rxcnt.toNat ≤ 8 ∧ ∀ k, b.rxcnt.toNat ≤ k → bufGet b.rxbuf k = 0

/-- DLEN is 0, 2, 3 or 4; data bytes from DLEN on are 0; no frame held means RXF is 0; and VALID is 1 only for a held
frame whose CRC matches (10_state.md R22, R32, R33; 43_transactions.md R215). -/
def Block.frameFits (v : CrcVariant) (b : Block) : Prop :=
  (b.dlen = 0 ∨ b.dlen = 2 ∨ b.dlen = 3 ∨ b.dlen = 4)
    ∧ (b.dlen = 0 → b.rxf = rxFieldsZero)
    ∧ (b.dlen.toNat ≤ 2 → b.rxf.d2 = 0) ∧ (b.dlen.toNat ≤ 3 → b.rxf.d3 = 0)
    ∧ (b.valid = true → b.dlen ≠ 0 ∧ validateFrame v b.rxFrame = true)

/-- The invariant of the block alone. -/
structure Block.Inv (v : CrcVariant) (b : Block) : Prop where
  op      : b.opFits
  running : b.runningFits
  send    : b.sendFits
  request : b.requestFits v
  window  : b.windowFits
  rxbuf   : b.rxbufFits
  frame   : b.frameFits v

/-- The scripts lie ahead, in order of time (00_scope.md R8, R9). -/
def State.scriptsFit (s : State) : Prop :=
  (s.env.bus.map BusChar.endTime).Pairwise (· ≤ ·) ∧ (∀ c ∈ s.env.bus, s.now ≤ c.endTime)
    ∧ (s.env.rst.map Edge.time).Pairwise (· ≤ ·) ∧ (∀ e ∈ s.env.rst, s.now ≤ e.time)

/-- The receive window opened in the past, and its deadline is T_RXTO after that, up to the slack: it is not restarted
(42_transport.md R178, R182). -/
def State.deadlineFits (s : State) : Prop :=
  s.block.phase = .rxwait →
    s.block.tOpen ≤ s.now
      ∧ s.block.tOpen + 1000 * s.block.tRxto.toNat ≤ s.block.tDead
      ∧ s.block.tDead ≤ s.block.tOpen + 1000 * s.block.tRxto.toNat + s.params.timerSlackNs

/-- The invariant of the machine: what every step keeps. -/
structure State.Inv (s : State) : Prop where
  /-- T_CHAR_NS is positive (00_scope.md R5) -/
  charNs   : 0 < s.params.charNs
  /-- the block is at its reset values for as long as `rst_n` is 0 (70_reset_and_hazards.md R270) -/
  held     : s.rstN = false → s.block = Block.reset
  block    : s.block.Inv s.params.crcVariant
  /-- `now` has not passed the deadline of a running command (00_scope.md R9) -/
  onTime   : s.block.busy = true → s.now ≤ s.block.tDead
  deadline : s.deadlineFits
  /-- the character on the wire has started (42_transport.md R173) -/
  started  : s.block.phase = .shift → s.block.tDead ≤ s.now + s.params.charNs
  scripts  : s.scriptsFit

/-- The level of a line by its trace: the last recorded edge, or the resting level. -/
def levelOf (rest : Bool) (es : List Edge) : Bool := (es.getLast?.map Edge.level).getD rest

/-- The traces of `dir` and `irq` end at the levels the lines have (00_scope.md R11). -/
def State.TracesFit (s : State) : Prop :=
  levelOf true s.obs.dirTrace = s.dir ∧ levelOf false s.obs.irqTrace = s.irq

/-- The longest a receive window of the running command can still take: none follows a plain SEND. -/
def State.windowBound (s : State) : Nat :=
  match s.block.op with
  | .send => 0
  | _     => 1000 * s.block.tRxto.toNat + s.params.timerSlackNs

/-- The longest the drain of the running command can take. -/
def State.drainBound (s : State) : Nat := 1000 * s.block.tDrain.toNat + s.params.timerSlackNs

/-- A time by which the running bus command has completed: the present deadline and everything that can follow it
(70_reset_and_hazards.md R280, R281). -/
def State.completesBy (s : State) : Nat :=
  match s.block.phase with
  | .idle   => s.now
  | .settle => s.block.tDead + s.block.txlen.toNat * s.params.charNs + s.drainBound + s.windowBound
  | .shift  => s.block.tDead + (s.block.txlen.toNat - (s.block.txIdx + 1)) * s.params.charNs + s.drainBound + s.windowBound
  | .drain  => s.block.tDead + s.windowBound
  | .rxwait => s.block.tDead

/-- Commands run one after the other by writes to CMD at one instant (20_memory.md R70). -/
def execAll : List Instr → State → Host.Outcome State Fault Refusal
  | [], s      => .next s
  | i :: is, s =>
    match exec i s with
    | .next t    => execAll is t
    | .fault f   => .fault f
    | .refused r => .refused r

/-- `n` steps of the machine, stopping at the first fault or refusal. -/
def steps : Nat → State → Host.Outcome State Fault Refusal
  | 0, s     => .next s
  | n + 1, s =>
    match step s with
    | .next t    => steps n t
    | .fault f   => .fault f
    | .refused r => .refused r

/-- The characters of a byte list sent back to back from time t (42_transport.md R173, R176). -/
def txChars (charNs t : Nat) : List Byte → List TxChar
  | []      => []
  | b :: bs => { byte := b, start := t, truncated := none } :: txChars charNs (t + charNs) bs

/-- Nothing is left in the scripts: only the Engine and Time can move. -/
def State.quiet (s : State) : Prop := s.env.host = [] ∧ s.env.bus = [] ∧ s.env.rst = []

end Sys2Proof.Machine
end

