-- ==== Sys2Proof/Certificates/Slice0/Obligations.lean ====
section
/-! DEFINITION. The statements for the provers, about the block as spec/ describes it. Where a statement names an open
point of the spec it says which log entry (notes/assumptions) the model's choice stands in. -/

open Sys2Proof Sys2Proof.Machine

/-! The command word (30_encoding.md). -/

/-- Words written out from the field layout of 30_encoding.md R90 and the table of R100 decode to the commands they stand
for, and words R94 rules out are rejected under the clause that rules them out. -/
def Obligations.TableWordsDecode : Prop :=
  decodeWord 0x00000001 = .ok .crcInit
    ∧ decodeWord 0x0000A502 = .ok (.crcFeed 0xA5)
    ∧ decodeWord 0x00030003 = .ok (.encode 3)
    ∧ decodeWord 0x00070004 = .ok (.decode 7)
    ∧ decodeWord 0x00000005 = .ok .validate
    ∧ decodeWord 0x00000006 = .ok .send
    ∧ decodeWord 0x00080007 = .ok (.receive 8)
    ∧ decodeWord 0x00000008 = .ok .regXact
    ∧ decodeWord 0x00000009 = .ok .coilXact
    ∧ decodeWord 0x00000000 = .error .reservedOp
    ∧ decodeWord 0x0000000A = .error .reservedOp
    ∧ decodeWord 0x00000011 = .error .lowMustBeZero
    ∧ decodeWord 0x80000001 = .error .highMustBeZero
    ∧ decodeWord 0x00000106 = .error .byteOperand
    ∧ decodeWord 0x00010001 = .error .lengthOperand
    ∧ decodeWord 0x00090007 = .error .lengthRange

/-- Decoding the word of a command with operands in range gives the command back, at every operand value the encoding
admits: no bit of a field is dropped. -/
def Obligations.DecodeOfEncode : Prop := ∀ i : Instr, i.wf = true → decodeWord (encodeWord i) = .ok i

/-- Every word the decoder accepts is the word of the command it gives, whose operands are in range: no two words are one
command, and no illegal word is accepted. -/
def Obligations.EncodeOfDecode : Prop := ∀ (v : Word) (i : Instr), decodeWord v = .ok i → i.wf = true ∧ encodeWord i = v

/-- 30_encoding.md R94: the decoder accepts a word exactly when every clause of `legal` holds, and SEND checks TXLEN at
acceptance with the same result code as an illegal word. -/
def Obligations.LegalWordsAreTheAcceptedOnes : Prop :=
  (∀ v : Word, (∃ i, decodeWord v = .ok i) ↔
      v.extractLsb' 4 4 = 0 ∧ v.extractLsb' 20 12 = 0
        ∧ (1 ≤ (v.extractLsb' 0 4).toNat ∧ (v.extractLsb' 0 4).toNat ≤ 9)
        ∧ (v.extractLsb' 0 4 = 2 ∨ v.extractLsb' 8 8 = 0)
        ∧ ((v.extractLsb' 0 4 = 3 ∨ v.extractLsb' 0 4 = 4 ∨ v.extractLsb' 0 4 = 7) ∨ v.extractLsb' 16 4 = 0)
        ∧ (v.extractLsb' 0 4 = 3 → v.extractLsb' 16 4 = 2 ∨ v.extractLsb' 16 4 = 3 ∨ v.extractLsb' 16 4 = 4)
        ∧ (v.extractLsb' 0 4 = 4 → v.extractLsb' 16 4 = 6 ∨ v.extractLsb' 16 4 = 7 ∨ v.extractLsb' 16 4 = 8)
        ∧ (v.extractLsb' 0 4 = 7 → 1 ≤ (v.extractLsb' 16 4).toNat ∧ (v.extractLsb' 16 4).toNat ≤ 8))
    ∧ ∀ s : State, s.ready = true → ¬(1 ≤ s.block.txlen.toNat ∧ s.block.txlen.toNat ≤ 8) →
        ∃ t, exec .send s = .next t ∧ t.block.done = true ∧ t.block.result = .illegalCmd

/-- The order of checks of 60_exceptions.md R252 items 1 to 6 for one write to CMD, with the first that applies deciding:
reset held, BusError, BUSY, illegal word, SEND with TXLEN outside 1 to 8, closed port; and a word that passes them runs
its command. A command whose operand is out of range, which no word decodes to, is ILLEGAL_CMD too (the model's choice,
log 21). -/
def Obligations.CommandWriteCheckOrder : Prop :=
  ∀ (off : Offset) (size : Nat) (v : Word) (s : State),
    (s.rstN = false → hostWrite off size v s = .next s)
      ∧ (s.rstN = true → ¬(size = 4 ∧ off.toNat % 4 = 0) → hostWrite off size v s = .fault (.busError off))
      ∧ (s.rstN = true → s.block.busy = true →
          hostWrite 0x08 4 v s = .next { s with block := { s.block with busyWr := true } })
      ∧ (s.ready = true → (¬∃ i, decodeWord v = .ok i) →
          hostWrite 0x08 4 v s = .next { s with block :=
            { s.block with done := true, result := .illegalCmd, phase := .idle, op := .none } })
      ∧ (s.ready = true → v = 0x00000006 → ¬(1 ≤ s.block.txlen.toNat ∧ s.block.txlen.toNat ≤ 8) →
          hostWrite 0x08 4 v s = .next { s with block :=
            { s.block with done := true, result := .illegalCmd, phase := .idle, op := .none } })
      ∧ (s.ready = true → (∃ i, decodeWord v = .ok i) → 6 ≤ (v.extractLsb' 0 4).toNat →
          (v = 0x00000006 → 1 ≤ s.block.txlen.toNat ∧ s.block.txlen.toNat ≤ 8) → s.block.portEn = false →
          hostWrite 0x08 4 v s = .next { s with block :=
            { s.block with done := true, result := .transportError, phase := .idle, op := .none } })
      ∧ (s.ready = true → ∀ i, decodeWord v = .ok i → hostWrite 0x08 4 v s = exec i s)
      ∧ (s.ready = true → ∀ i : Instr, i.wf = false →
          exec i s = .next { s with block :=
            { s.block with done := true, result := .illegalCmd, phase := .idle, op := .none } })

/-- 60_exceptions.md R245: an illegal word, and a SEND with TXLEN outside 1 to 8, complete at once with ILLEGAL_CMD and no
other effect, in every state of the invariant in which a command is accepted. -/
def Obligations.IllegalCommandHasNoOtherEffect : Prop :=
  ∀ s : State, s.Inv → s.ready = true →
    (∀ v : Word, (¬∃ i, decodeWord v = .ok i) →
      hostWrite 0x08 4 v s = .next { s with block := { s.block with done := true, result := .illegalCmd } })
    ∧ (¬(1 ≤ s.block.txlen.toNat ∧ s.block.txlen.toNat ≤ 8) →
      exec .send s = .next { s with block := { s.block with done := true, result := .illegalCmd } })

/-- 60_exceptions.md R244: a bus command accepted while PORT_EN = 0 completes at once with TRANSPORT_ERROR; nothing goes on
the wire and no register other than DONE and RESULT changes. -/
def Obligations.ClosedPortGivesTransportError : Prop :=
  ∀ s : State, s.Inv → s.ready = true → s.block.portEn = false →
    ∀ i : Instr, (i = .send ∧ 1 ≤ s.block.txlen.toNat ∧ s.block.txlen.toNat ≤ 8)
        ∨ (∃ n : BitVec 4, 1 ≤ n.toNat ∧ n.toNat ≤ 8 ∧ i = .receive n) ∨ i = .regXact ∨ i = .coilXact →
      exec i s = .next { s with block := { s.block with done := true, result := .transportError } }

/-! The CRC generator and its laws (40_crc.md). -/

/-- 40_crc.md R121: `crc16` starts from 0xFFFF and folds `crc_update` over the bytes in list order, with no final step, at the
default of CRC_VARIANT. -/
def Obligations.CrcFoldsInListOrder : Prop :=
  crc16 .modbus [] = 0xFFFF ∧ ∀ (xs : List Byte) (b : Byte), crc16 .modbus (xs ++ [b]) = crcUpdate .modbus (crc16 .modbus xs) b

/-- 40_crc.md R126: at the default of CRC_VARIANT, for each byte `crc_update` is a bijection on u16, it depends on the
accumulator and the byte through their XOR alone, and a single-bit change in any one input byte changes the CRC. -/
def Obligations.CrcUpdateLaws : Prop :=
  (∀ b : Byte, Function.Bijective fun c : Half => crcUpdate .modbus c b)
    ∧ (∀ (c : Half) (b : Byte), crcUpdate .modbus c b = crcUpdate .modbus (c ^^^ b.setWidth 16) 0)
    ∧ ∀ (xs ys : List Byte) (b : Byte) (k : Nat), k < 8 →
        crc16 .modbus (xs ++ [b ^^^ BitVec.twoPow 8 k] ++ ys) ≠ crc16 .modbus (xs ++ [b] ++ ys)

/-- 40_crc.md R125: at the default of CRC_VARIANT, appending the CRC low byte first gives the CRC 0x0000, and a byte pair that
gives 0x0000 is the CRC, so the zero check over a whole frame and the comparison the block makes (41_codec.md R144) accept
the same frames. -/
def Obligations.CrcResidueIsZero : Prop :=
  (∀ xs : List Byte, crc16 .modbus (xs ++ [(crc16 .modbus xs).extractLsb' 0 8, (crc16 .modbus xs).extractLsb' 8 8]) = 0)
    ∧ (∀ (xs : List Byte) (lo hi : Byte), crc16 .modbus (xs ++ [lo, hi]) = 0 ↔ (hi ++ lo : Half) = crc16 .modbus xs)
    ∧ ∀ f : Frame, crc16 .modbus (encodeBytes f) = 0 ↔ validateFrame .modbus f = true

/-- 40_crc.md R123: CRC_INIT, whole: its word, its effect, the BUSY case, and the words of its OP with a nonzero
must-be-zero bit. -/
def Obligations.CrcInitRule : Prop :=
  decodeWord 0x00000001 = .ok .crcInit
    ∧ (∀ s : State, s.ready = true →
        exec .crcInit s = .next { s with block :=
          { s.block with crc := 0xFFFF, done := true, result := .ok, phase := .idle, op := .none } })
    ∧ (∀ s : State, s.rstN = true → s.block.busy = true →
        exec .crcInit s = .next { s with block := { s.block with busyWr := true } })
    ∧ ∀ (s : State) (v : Word), s.ready = true → v.extractLsb' 0 4 = 1 → v ≠ 0x00000001 →
        hostWrite 0x08 4 v s = .next { s with block :=
          { s.block with done := true, result := .illegalCmd, phase := .idle, op := .none } }

/-- 40_crc.md R124: CRC_FEED, whole: its words, its effect, the BUSY case, the illegal words of its OP, and what feeding a
byte list after CRC_INIT leaves, for every CRC_VARIANT; at the default that is `crc16` of the list. -/
def Obligations.CrcFeedRule : Prop :=
  (∀ b : Byte, decodeWord (0x00000002 ||| (b.setWidth 32 <<< 8)) = .ok (.crcFeed b))
    ∧ (∀ (s : State) (b : Byte), s.ready = true →
        exec (.crcFeed b) s = .next { s with block :=
          { s.block with crc := crcUpdate s.params.crcVariant s.block.crc b, done := true, result := .ok, phase := .idle, op := .none } })
    ∧ (∀ (s : State) (b : Byte), s.rstN = true → s.block.busy = true →
        exec (.crcFeed b) s = .next { s with block := { s.block with busyWr := true } })
    ∧ (∀ (s : State) (v : Word), s.ready = true → v.extractLsb' 0 4 = 2 →
        (v.extractLsb' 4 4 ≠ 0 ∨ v.extractLsb' 16 16 ≠ 0) →
        hostWrite 0x08 4 v s = .next { s with block :=
          { s.block with done := true, result := .illegalCmd, phase := .idle, op := .none } })
    ∧ crcUpdate .modbus 0xFFFF 0x00 = 0x40BF ∧ crcUpdate .modbus 0xFFFF 0x01 = 0x807E ∧ crcUpdate .modbus 0x807E 0x03 = 0x2140
    ∧ (∀ xs : List Byte, xs.foldl (crcUpdate .modbus) 0xFFFF = crc16 .modbus xs)
    ∧ ∀ (s : State) (xs : List Byte), s.ready = true →
        execAll (.crcInit :: xs.map .crcFeed) s = .next { s with block :=
          { s.block with
            crc := xs.foldl (crcUpdate s.params.crcVariant) 0xFFFF
            done := true, result := .ok, phase := .idle, op := .none } }

/-! The frame codec (41_codec.md). -/

/-- 41_codec.md R142, R143: an input shorter than the expected length is ShortRead and never a frame; a long enough one is
the frame of its first L bytes. -/
def Obligations.ShortInputNeverYieldsAFrame : Prop :=
  ∀ (bs : List Byte) (n : Nat),
    (bs.length < n → decodeBytes bs n = .shortRead)
      ∧ (6 ≤ n → n ≤ bs.length →
          ∃ f, decodeBytes bs n = .frame f ∧ bs.take n = [f.addr, f.cmd] ++ f.data ++ [f.crc.extractLsb' 0 8, f.crc.extractLsb' 8 8]
            ∧ f.data.length = n - 4)

/-- 41_codec.md R145: decoding the wire form of a frame of 2, 3 or 4 data bytes gives the frame exactly, valid or not, and
encoding a decoded frame gives the bytes it came from. -/
def Obligations.FrameRoundTrip : Prop :=
  (∀ f : Frame, frameLenOk f = true → decodeBytes (encodeBytes f) (f.data.length + 4) = .frame f)
    ∧ ∀ (bs : List Byte) (n : Nat), n = 6 ∨ n = 7 ∨ n = 8 → n ≤ bs.length →
        ∃ f, decodeBytes bs n = .frame f ∧ encodeBytes f = bs.take n

/-- 41_codec.md R149: flipping one bit of a CRC byte of a valid encoded frame leaves address, command and data, changes the
received CRC in exactly that bit, and makes validation fail. -/
def Obligations.CrcBitFlipIsDetected : Prop :=
  ∀ (v : CrcVariant) (f : Frame) (j k : Nat), frameLenOk f = true → validateFrame v f = true → j < 2 → k < 8 →
    let bs := encodeBytes f
    let at_ := f.data.length + 2 + j
    let flipped := bs.set at_ (bs.getD at_ 0 ^^^ BitVec.twoPow 8 k)
    ∃ g, decodeBytes flipped (f.data.length + 4) = .frame g ∧ g.addr = f.addr ∧ g.cmd = f.cmd ∧ g.data = f.data
      ∧ g.crc = f.crc ^^^ BitVec.twoPow 16 (8 * j + k) ∧ validateFrame v g = false

/-- 41_codec.md R146: ENCODE, its words, its effect byte by byte, and the lengths it refuses. -/
def Obligations.EncodeRule : Prop :=
  (∀ n : BitVec 4, n = 2 ∨ n = 3 ∨ n = 4 → decodeWord (0x00000003 ||| (n.setWidth 32 <<< 16)) = .ok (.encode n))
    ∧ (∀ (s : State) (n : BitVec 4), s.ready = true → n = 2 ∨ n = 3 ∨ n = 4 →
        let data := [s.block.txf.d0, s.block.txf.d1, s.block.txf.d2, s.block.txf.d3].take n.toNat
        let c := crc16 s.params.crcVariant ([s.block.txf.addr, s.block.txf.cmd] ++ data)
        let out := [s.block.txf.addr, s.block.txf.cmd] ++ data ++ [c.extractLsb' 0 8, c.extractLsb' 8 8]
        ∃ buf : Buf, (∀ k, k < 8 → bufGet buf k = out.getD k 0)
          ∧ exec (.encode n) s = .next { s with block :=
              { s.block with txbuf := buf, txlen := n + 4, crc := c, done := true, result := .ok, phase := .idle, op := .none } })
    ∧ ∀ (s : State) (v : Word), s.ready = true → v.extractLsb' 0 4 = 3 →
        ¬(v.extractLsb' 16 4 = 2 ∨ v.extractLsb' 16 4 = 3 ∨ v.extractLsb' 16 4 = 4) →
        hostWrite 0x08 4 v s = .next { s with block :=
          { s.block with done := true, result := .illegalCmd, phase := .idle, op := .none } }

/-- 41_codec.md R147: DECODE, its words, its frame byte by byte, SHORT_READ exactly when RXCNT < L, and the lengths it
refuses. -/
def Obligations.DecodeRule : Prop :=
  (∀ n : BitVec 4, n = 6 ∨ n = 7 ∨ n = 8 → decodeWord (0x00000004 ||| (n.setWidth 32 <<< 16)) = .ok (.decode n))
    ∧ (∀ (s : State) (n : BitVec 4), s.ready = true → n = 6 ∨ n = 7 ∨ n = 8 → s.block.rxcnt.toNat < n.toNat →
        exec (.decode n) s = .next { s with block :=
          { s.block with
            rxf := { addr := 0, cmd := 0, d0 := 0, d1 := 0, d2 := 0, d3 := 0, crc := 0 }, dlen := 0, valid := false
            done := true, result := .shortRead, phase := .idle, op := .none } })
    ∧ (∀ (s : State) (n : BitVec 4), s.ready = true → n = 6 ∨ n = 7 ∨ n = 8 → n.toNat ≤ s.block.rxcnt.toNat →
        exec (.decode n) s = .next { s with block :=
          { s.block with
            rxf :=
              { addr := bufGet s.block.rxbuf 0, cmd := bufGet s.block.rxbuf 1
                d0 := bufGet s.block.rxbuf 2, d1 := bufGet s.block.rxbuf 3
                d2 := if n = 6 then 0 else bufGet s.block.rxbuf 4
                d3 := if n = 8 then bufGet s.block.rxbuf 5 else 0
                crc := bufGet s.block.rxbuf (n.toNat - 1) ++ bufGet s.block.rxbuf (n.toNat - 2) }
            dlen := BitVec.ofNat 3 (n.toNat - 4), valid := false
            done := true, result := .ok, phase := .idle, op := .none } })
    ∧ ∀ (s : State) (v : Word), s.ready = true → v.extractLsb' 0 4 = 4 →
        ¬(v.extractLsb' 16 4 = 6 ∨ v.extractLsb' 16 4 = 7 ∨ v.extractLsb' 16 4 = 8) →
        hostWrite 0x08 4 v s = .next { s with block :=
          { s.block with done := true, result := .illegalCmd, phase := .idle, op := .none } }

/-- 41_codec.md R148: VALIDATE, its word and its three results: NO_FRAME, OK and CRC_MISMATCH with the frame kept. -/
def Obligations.ValidateRule : Prop :=
  decodeWord 0x00000005 = .ok .validate
    ∧ ∀ s : State, s.ready = true →
        let c := crc16 s.params.crcVariant ([s.block.rxf.addr, s.block.rxf.cmd]
          ++ [s.block.rxf.d0, s.block.rxf.d1, s.block.rxf.d2, s.block.rxf.d3].take s.block.dlen.toNat)
        (s.block.dlen = 0 → exec .validate s = .next { s with block :=
          { s.block with valid := false, done := true, result := .noFrame, phase := .idle, op := .none } })
        ∧ (s.block.dlen ≠ 0 → c = s.block.rxf.crc → exec .validate s = .next { s with block :=
          { s.block with crc := c, valid := true, done := true, result := .ok, phase := .idle, op := .none } })
        ∧ (s.block.dlen ≠ 0 → c ≠ s.block.rxf.crc → exec .validate s = .next { s with block :=
          { s.block with crc := c, valid := false, done := true, result := .crcMismatch, phase := .idle, op := .none } })

/-! The transport (42_transport.md). Deadlines are exact at the default TIMER_SLACK_NS = 0 and otherwise late by at most
TIMER_SLACK_NS (92_eei_decisions.md D12, log 4), so a deadline is stated as a time d between the two bounds. -/

/-- 42_transport.md R174: SEND with a legal TXLEN and an open port starts the settle phase: BUSY becomes 1, `dir` falls
now, and the deadline is 1000 * T_SETTLE ns ahead. -/
def Obligations.SendStartsSettle : Prop :=
  ∀ s : State, s.ready = true → 1 ≤ s.block.txlen.toNat → s.block.txlen.toNat ≤ 8 → s.block.portEn = true →
    s.dir = true ∧ ∃ (t : State) (d : Nat), exec .send s = .next t ∧ t.dir = false ∧ t.block.busy = true
      ∧ s.now + 1000 * s.block.tSettle.toNat ≤ d ∧ d ≤ s.now + 1000 * s.block.tSettle.toNat + s.params.timerSlackNs
      ∧ t = { s with
          block := { s.block with done := false, result := .ok, op := .send, phase := .settle, tDead := d }
          draws := s.draws + 1 }

/-- 42_transport.md R184: RECEIVE n with n from 1 to 8 and an open port opens a window for n bytes: RXBUF and RXCNT are
cleared, `dir` stays 1 and the deadline is 1000 * T_RXTO ns ahead. -/
def Obligations.ReceiveOpensWindow : Prop :=
  ∀ (s : State) (n : BitVec 4), s.ready = true → 1 ≤ n.toNat → n.toNat ≤ 8 → s.block.portEn = true →
    ∃ (t : State) (d : Nat), exec (.receive n) s = .next t ∧ t.dir = true ∧ t.block.busy = true
      ∧ s.now + 1000 * s.block.tRxto.toNat ≤ d ∧ d ≤ s.now + 1000 * s.block.tRxto.toNat + s.params.timerSlackNs
      ∧ t = { s with
          block :=
            { s.block with
              done := false, result := .ok, op := .receive, phase := .rxwait
              rxbuf := #v[0, 0, 0, 0, 0, 0, 0, 0], rxcnt := 0, rxN := n.toNat, tOpen := s.now, tDead := d }
          draws := s.draws + 1 }

/-- 42_transport.md R175, R176, R177: what the Engine does at the end of the settle, of a character and of the drain. -/
def Obligations.EngineSendSteps : Prop :=
  ∀ s : State, s.rstN = true →
    (s.block.phase = .settle →
      engineStep s = .next { s with
        block := { s.block with phase := .shift, txIdx := 0, tDead := s.now + s.params.charNs }
        obs := { s.obs with txdTrace := s.obs.txdTrace ++ [⟨bufGet s.block.txbuf 0, s.now, none⟩] } })
    ∧ (s.block.phase = .shift → s.block.txIdx + 1 < s.block.txlen.toNat →
      engineStep s = .next { s with
        block := { s.block with txIdx := s.block.txIdx + 1, tDead := s.now + s.params.charNs }
        obs := { s.obs with txdTrace := s.obs.txdTrace ++ [⟨bufGet s.block.txbuf (s.block.txIdx + 1), s.now, none⟩] } })
    ∧ (s.block.phase = .shift → s.block.txlen.toNat ≤ s.block.txIdx + 1 →
      ∃ d, s.now + 1000 * s.block.tDrain.toNat ≤ d ∧ d ≤ s.now + 1000 * s.block.tDrain.toNat + s.params.timerSlackNs
        ∧ engineStep s = .next { s with
            block := { s.block with phase := .drain, txIdx := s.block.txIdx + 1, tDead := d }
            draws := s.draws + 1 })
    ∧ (s.block.phase = .drain → s.block.op = .send →
      engineStep s = .next { s with block :=
        { s.block with done := true, result := .ok, phase := .idle, op := .none } })
    ∧ (s.block.phase = .drain → s.block.op = .regXact ∨ s.block.op = .coilXact →
      s.dir = false ∧ ∃ (t : State) (d : Nat), engineStep s = .next t ∧ t.dir = true
        ∧ s.now + 1000 * s.block.tRxto.toNat ≤ d ∧ d ≤ s.now + 1000 * s.block.tRxto.toNat + s.params.timerSlackNs
        ∧ t = { s with
            block :=
              { s.block with
                phase := .rxwait, rxbuf := #v[0, 0, 0, 0, 0, 0, 0, 0], rxcnt := 0, tOpen := s.now, tDead := d
                rxN := if s.block.op = .regXact then 7 else 6 }
            draws := s.draws + 1 })

/-- 42_transport.md R179, R180: a character that ends now is stored at RXBUF[RXCNT] exactly when it lies wholly inside the
open window and before its deadline, where RXCNT < rx_n ≤ 8, and closes the window when it is the last one; any other
character sets RX_DROP and changes nothing else. -/
def Obligations.ReceivedCharacterRule : Prop :=
  ∀ (s : State) (x : Byte), s.Inv → s.rstN = true →
    (s.block.phase = .rxwait ∧ s.block.tOpen + s.params.charNs ≤ s.now ∧ s.now < s.block.tDead →
      s.block.rxcnt.toNat < s.block.rxN ∧ s.block.rxN ≤ 8
        ∧ ∃ buf : Buf, bufGet buf s.block.rxcnt.toNat = x ∧ (∀ k, k ≠ s.block.rxcnt.toNat → bufGet buf k = bufGet s.block.rxbuf k)
          ∧ let t : State := { s with block := { s.block with rxbuf := buf, rxcnt := s.block.rxcnt + 1 } }
            (s.block.rxcnt.toNat + 1 ≠ s.block.rxN → deliver (some x) s = .next t)
              ∧ (s.block.rxcnt.toNat + 1 = s.block.rxN → deliver (some x) s = closeRx t))
    ∧ (¬(s.block.phase = .rxwait ∧ s.block.tOpen + s.params.charNs ≤ s.now ∧ s.now < s.block.tDead) →
      deliver (some x) s = .next { s with block := { s.block with rxDrop := true } })

/-- 42_transport.md R186: a character with a framing or parity error is counted and stored, or dropped, like any other,
with some byte for its value that depends on the number of the draw alone; the byte is a free value of the model (log 7),
so nothing more can be said of it. -/
def Obligations.ErroneousCharacterIsReceived : Prop :=
  ∃ draw : Nat → Byte, ∀ s : State, s.rstN = true →
    deliver none s = deliver (some (draw s.draws)) { s with draws := s.draws + 1 }

/-- 42_transport.md R182: at its deadline an open window closes with fewer bytes than it waits for; the deadline is
1000 * T_RXTO ns after the window opened (with exact timers, TIMER_SLACK_NS = 0), and no step restarts it while the window
stays open. -/
def Obligations.WindowClosesOnTimeout : Prop :=
  ∀ s t : State, s.Inv → s.block.phase = .rxwait → step s = .next t →
    s.block.rxcnt.toNat < s.block.rxN
      ∧ (s.params.timerSlackNs = 0 → s.block.tDead = s.block.tOpen + 1000 * s.block.tRxto.toNat)
      ∧ (s.now = s.block.tDead → s.resetDue = false →
          t.block.busy = false ∧ t.block.rxcnt = s.block.rxcnt ∧ t.block.rxbuf = s.block.rxbuf)
      ∧ (t.block.phase = .rxwait → t.block.tDead = s.block.tDead ∧ t.block.tOpen = s.block.tOpen)

/-- 42_transport.md R185: a RECEIVE completes with OK however it closed and leaves the decoded frame alone; only DECODE and
the transactions produce SHORT_READ. -/
def Obligations.ReceiveAlwaysCompletesOk : Prop :=
  ∀ s t : State, s.Inv → step s = .next t →
    (s.block.op = .receive → t.block.busy = false → t.rstN = true →
      t.block.done = true ∧ t.block.result = .ok ∧ t.block.rxf = s.block.rxf ∧ t.block.dlen = s.block.dlen
        ∧ t.block.valid = s.block.valid)
    ∧ (t.block.result = .shortRead → s.block.result ≠ .shortRead →
      (∃ v rest n, s.env.host = .wr 0x08 4 v :: rest ∧ decodeWord v = .ok (.decode n))
        ∨ s.block.op = .regXact ∨ s.block.op = .coilXact)

/-! The transactions (43_transactions.md). -/

/-- 43_transactions.md R210: REG_XACT with an open port builds the 8-byte request from TXF, sets TXLEN and CRC, and starts
the settle phase. -/
def Obligations.RegXactStartsSettle : Prop :=
  ∀ s : State, s.ready = true → s.block.portEn = true →
    let c := crc16 s.params.crcVariant
      [s.block.txf.addr, s.block.txf.cmd, s.block.txf.d0, s.block.txf.d1, s.block.txf.d2, s.block.txf.d3]
    ∃ (t : State) (d : Nat), exec .regXact s = .next t ∧ t.dir = false ∧ t.block.busy = true
      ∧ s.now + 1000 * s.block.tSettle.toNat ≤ d ∧ d ≤ s.now + 1000 * s.block.tSettle.toNat + s.params.timerSlackNs
      ∧ t = { s with
          block :=
            { s.block with
              txbuf := #v[s.block.txf.addr, s.block.txf.cmd, s.block.txf.d0, s.block.txf.d1, s.block.txf.d2, s.block.txf.d3,
                c.extractLsb' 0 8, c.extractLsb' 8 8]
              txlen := 8, crc := c
              done := false, result := .ok, op := .regXact, phase := .settle, tDead := d }
          draws := s.draws + 1 }

/-- 43_transactions.md R213: COIL_XACT with an open port builds the 6-byte request from TXF, zeros past it, sets TXLEN and
CRC, and starts the settle phase; TXF.D2 and D3 play no part. -/
def Obligations.CoilXactStartsSettle : Prop :=
  ∀ s : State, s.ready = true → s.block.portEn = true →
    let c := crc16 s.params.crcVariant [s.block.txf.addr, s.block.txf.cmd, s.block.txf.d0, s.block.txf.d1]
    ∃ (t : State) (d : Nat), exec .coilXact s = .next t ∧ t.dir = false ∧ t.block.busy = true
      ∧ s.now + 1000 * s.block.tSettle.toNat ≤ d ∧ d ≤ s.now + 1000 * s.block.tSettle.toNat + s.params.timerSlackNs
      ∧ t = { s with
          block :=
            { s.block with
              txbuf := #v[s.block.txf.addr, s.block.txf.cmd, s.block.txf.d0, s.block.txf.d1,
                c.extractLsb' 0 8, c.extractLsb' 8 8, 0, 0]
              txlen := 6, crc := c
              done := false, result := .ok, op := .coilXact, phase := .settle, tDead := d }
          draws := s.draws + 1 }

/-- 43_transactions.md R212: when the window of a transaction closes, the length is checked and then the CRC: SHORT_READ,
OK with the frame in RXF, or CRC_MISMATCH with the frame discarded; RXBUF keeps the raw bytes. -/
def Obligations.TransactionCheckRule : Prop :=
  ∀ s : State, (s.block.op = .regXact ∧ s.block.rxN = 7) ∨ (s.block.op = .coilXact ∧ s.block.rxN = 6) →
    let n := s.block.rxN
    let c := crc16 s.params.crcVariant ((List.range (n - 2)).map (bufGet s.block.rxbuf))
    let received : Half := bufGet s.block.rxbuf (n - 1) ++ bufGet s.block.rxbuf (n - 2)
    (s.block.rxcnt.toNat < n →
      closeRx s = .next { s with block :=
        { s.block with
          rxf := { addr := 0, cmd := 0, d0 := 0, d1 := 0, d2 := 0, d3 := 0, crc := 0 }, dlen := 0, valid := false
          done := true, result := .shortRead, phase := .idle, op := .none } })
    ∧ (n ≤ s.block.rxcnt.toNat → c = received →
      closeRx s = .next { s with block :=
        { s.block with
          rxf :=
            { addr := bufGet s.block.rxbuf 0, cmd := bufGet s.block.rxbuf 1
              d0 := bufGet s.block.rxbuf 2, d1 := bufGet s.block.rxbuf 3
              d2 := if n = 7 then bufGet s.block.rxbuf 4 else 0, d3 := 0, crc := received }
          dlen := BitVec.ofNat 3 (n - 4), valid := true, crc := c
          done := true, result := .ok, phase := .idle, op := .none } })
    ∧ (n ≤ s.block.rxcnt.toNat → c ≠ received →
      closeRx s = .next { s with block :=
        { s.block with
          rxf := { addr := 0, cmd := 0, d0 := 0, d1 := 0, d2 := 0, d3 := 0, crc := 0 }, dlen := 0, valid := false, crc := c
          done := true, result := .crcMismatch, phase := .idle, op := .none } })

/-- 43_transactions.md R215: a transaction that ends without reset ends in exactly one of: OK with a held frame of the
response length whose CRC matches, or SHORT_READ or CRC_MISMATCH with no frame and RXF0 = RXF1 = 0; and one that a closed
port stops at acceptance changes DONE and RESULT alone. -/
def Obligations.TransactionResultIsNeverPartial : Prop :=
  (∀ s t : State, s.Inv → s.block.op = .regXact ∨ s.block.op = .coilXact → step s = .next t → t.block.busy = false →
      t.rstN = true →
      (t.block.result = .ok ∧ t.block.valid = true ∧ validateFrame s.params.crcVariant t.block.rxFrame = true
          ∧ (s.block.op = .regXact → t.block.dlen = 3) ∧ (s.block.op = .coilXact → t.block.dlen = 2))
        ∨ ((t.block.result = .shortRead ∨ t.block.result = .crcMismatch) ∧ t.block.valid = false ∧ t.block.dlen = 0
          ∧ t.block.readReg .rxf0 = 0 ∧ t.block.readReg .rxf1 = 0))
    ∧ ∀ (s : State) (i : Instr), s.Inv → s.ready = true → i = .regXact ∨ i = .coilXact → s.block.portEn = false →
        exec i s = .next { s with block := { s.block with done := true, result := .transportError } }

/-- 43_transactions.md R216: at the default of CRC_VARIANT, an 8-byte echo of a request cut to its first 7 bytes passes the
check of a 3-data frame exactly when its fourth data byte is the low CRC byte of the five bytes before it. -/
def Obligations.TruncatedEchoCheck : Prop :=
  ∀ (xs : List Byte) (d3 : Byte),
    ((crc16 .modbus (xs ++ [d3])).extractLsb' 0 8 ++ d3 : Half) = crc16 .modbus xs ↔ d3 = (crc16 .modbus xs).extractLsb' 0 8

/-! The register window (20_memory.md, 10_state.md). -/

/-- 20_memory.md R61, 60_exceptions.md R248: while reset is released an access that is not 32 bits wide or not 4-byte aligned is
refused with BusError, and any other access is answered. While reset is held the outcome of an odd access is the model's
reading (log 11, DEDUCED), for the read and the write alike: a write has no effect whatever its width (60_exceptions.md
R252 item 1), and an odd read is refused as at any other time. -/
def Obligations.OddAccessesAreBusErrors : Prop :=
  ∀ (s : State) (off : Offset) (size : Nat) (v : Word),
    (¬(size = 4 ∧ off.toNat % 4 = 0) →
      hostRead off size s = .fault (.busError off)
        ∧ (s.rstN = true → hostWrite off size v s = .fault (.busError off))
        ∧ (s.rstN = false → hostWrite off size v s = .next s))
    ∧ (size = 4 ∧ off.toNat % 4 = 0 → (∃ t, hostRead off size s = .next t) ∧ ∃ t, hostWrite off size v s = .next t)

/-- 20_memory.md R62: an admitted access to a reserved offset reads 0 and ignores the write, with no error and no flag. -/
def Obligations.ReservedOffsetsReadZero : Prop :=
  ∀ (s : State) (off : Offset) (v : Word), off.toNat % 4 = 0 → 0x44 ≤ off.toNat →
    hostRead off 4 s = .next { s with obs := { s.obs with reads := s.obs.reads ++ [0] } } ∧ hostWrite off 4 v s = .next s

/-- 20_memory.md R63, 10_state.md R20: a read of a register, at the offset the register map gives it, returns its value and
changes nothing but the observation; CMD reads 0. -/
def Obligations.ReadsHaveNoSideEffect : Prop :=
  ∀ (s : State) (r : Reg),
    let off : Offset :=
      match r with
      | .ctrl    => 0x00
      | .status  => 0x04
      | .cmd     => 0x08
      | .crc     => 0x0C
      | .txf0    => 0x10
      | .txf1    => 0x14
      | .txb0    => 0x18
      | .txb1    => 0x1C
      | .txlen   => 0x20
      | .rxb0    => 0x24
      | .rxb1    => 0x28
      | .rxf0    => 0x2C
      | .rxf1    => 0x30
      | .rxinfo  => 0x34
      | .tSettle => 0x38
      | .tDrain  => 0x3C
      | .tRxto   => 0x40
    r.offset = off
      ∧ hostRead off 4 s = .next { s with obs := { s.obs with reads := s.obs.reads ++ [s.view.readReg r] } }
      ∧ s.view.readReg .cmd = 0

/-- 10_state.md R21 to R36, R40, R41, 20_memory.md R66: where each field stands in its register, reserved bits 0, with the
codes of RESULT (R23) and of PHASE (R22, R40) and the level of DIR in each phase. -/
def Obligations.RegisterFieldPlaces : Prop :=
  ∀ b : Block,
    ((b.readReg .ctrl).getLsbD 0 = b.portEn ∧ (b.readReg .ctrl).getLsbD 1 = b.irqEn
      ∧ (b.readReg .ctrl).extractLsb' 2 30 = 0)
    ∧ ((b.readReg .status).getLsbD 0 = (b.phase != .idle) ∧ (b.readReg .status).getLsbD 1 = b.done
      ∧ (b.readReg .status).extractLsb' 2 3 =
          (match b.result with
           | .ok             => 0
           | .shortRead      => 1
           | .crcMismatch    => 2
           | .transportError => 3
           | .illegalCmd     => 4
           | .noFrame        => 5)
      ∧ (b.readReg .status).getLsbD 5 = b.valid
      ∧ (b.readReg .status).getLsbD 6 = (b.phase == .idle || b.phase == .rxwait) ∧ (b.readReg .status).getLsbD 7 = b.rxDrop
      ∧ (b.readReg .status).getLsbD 8 = b.busyWr ∧ (b.readReg .status).extractLsb' 9 3 = 0
      ∧ (b.readReg .status).extractLsb' 12 4 = b.rxcnt
      ∧ (b.readReg .status).extractLsb' 16 3 =
          (match b.phase with
           | .idle   => 0
           | .settle => 1
           | .shift  => 2
           | .drain  => 3
           | .rxwait => 4)
      ∧ (b.readReg .status).extractLsb' 19 13 = 0)
    ∧ ((b.readReg .crc).extractLsb' 0 16 = b.crc ∧ (b.readReg .crc).extractLsb' 16 16 = 0)
    ∧ ((b.readReg .txf0).extractLsb' 0 8 = b.txf.addr ∧ (b.readReg .txf0).extractLsb' 8 8 = b.txf.cmd
      ∧ (b.readReg .txf0).extractLsb' 16 8 = b.txf.d0 ∧ (b.readReg .txf0).extractLsb' 24 8 = b.txf.d1)
    ∧ ((b.readReg .txf1).extractLsb' 0 8 = b.txf.d2 ∧ (b.readReg .txf1).extractLsb' 8 8 = b.txf.d3
      ∧ (b.readReg .txf1).extractLsb' 16 16 = 0)
    ∧ (∀ k, k < 4 → (b.readReg .txb0).extractLsb' (8 * k) 8 = bufGet b.txbuf k
      ∧ (b.readReg .txb1).extractLsb' (8 * k) 8 = bufGet b.txbuf (4 + k)
      ∧ (b.readReg .rxb0).extractLsb' (8 * k) 8 = bufGet b.rxbuf k
      ∧ (b.readReg .rxb1).extractLsb' (8 * k) 8 = bufGet b.rxbuf (4 + k))
    ∧ ((b.readReg .txlen).extractLsb' 0 4 = b.txlen ∧ (b.readReg .txlen).extractLsb' 4 28 = 0)
    ∧ ((b.readReg .rxf0).extractLsb' 0 8 = b.rxf.addr ∧ (b.readReg .rxf0).extractLsb' 8 8 = b.rxf.cmd
      ∧ (b.readReg .rxf0).extractLsb' 16 8 = b.rxf.d0 ∧ (b.readReg .rxf0).extractLsb' 24 8 = b.rxf.d1)
    ∧ ((b.readReg .rxf1).extractLsb' 0 8 = b.rxf.d2 ∧ (b.readReg .rxf1).extractLsb' 8 8 = b.rxf.d3
      ∧ (b.readReg .rxf1).extractLsb' 16 16 = b.rxf.crc)
    ∧ ((b.readReg .rxinfo).extractLsb' 0 3 = b.dlen ∧ (b.readReg .rxinfo).extractLsb' 3 29 = 0)
    ∧ ((b.readReg .tSettle).extractLsb' 0 24 = b.tSettle ∧ (b.readReg .tSettle).extractLsb' 24 8 = 0)
    ∧ ((b.readReg .tDrain).extractLsb' 0 24 = b.tDrain ∧ (b.readReg .tDrain).extractLsb' 24 8 = 0)
    ∧ ((b.readReg .tRxto).extractLsb' 0 24 = b.tRxto ∧ (b.readReg .tRxto).extractLsb' 24 8 = 0)

/-- 20_memory.md R64: while not BUSY, what a write of v to register r leaves to be read in every register: the writable
bits of v in r itself (the W1C bits of STATUS cleared, read-only registers as they were), and every other register
unchanged. -/
def Obligations.WriteThenReadBack : Prop :=
  ∀ (s : State) (r q : Reg) (v : Word), s.ready = true → r ≠ .cmd →
    ∃ t, hostWrite r.offset 4 v s = .next t
      ∧ t.block.readReg q =
          (if q ≠ r then s.block.readReg q
           else match r with
            | .ctrl    => v &&& 0x00000003
            | .status  => s.block.readReg .status &&& ~~~(v &&& 0x00000182)
            | .txf0    => v
            | .txf1    => v &&& 0x0000FFFF
            | .txb0    => v
            | .txb1    => v
            | .txlen   => v &&& 0x0000000F
            | .tSettle => v &&& 0x00FFFFFF
            | .tDrain  => v &&& 0x00FFFFFF
            | .tRxto   => v &&& 0x00FFFFFF
            | .cmd     => 0
            | .crc     => s.block.readReg .crc
            | .rxb0    => s.block.readReg .rxb0
            | .rxb1    => s.block.readReg .rxb1
            | .rxf0    => s.block.readReg .rxf0
            | .rxf1    => s.block.readReg .rxf1
            | .rxinfo  => s.block.readReg .rxinfo)

/-- 20_memory.md R65: while BUSY, a write to CMD, an operand or a timing register sets BUSY_WR and does nothing else; a
CTRL write updates IRQ_EN alone; STATUS W1C writes act; and no step of the machine but a reset changes the operands and
timing of the running command. -/
def Obligations.BusyWritesAreIgnored : Prop :=
  (∀ (s : State) (v : Word), s.rstN = true → s.block.busy = true →
      (∀ r : Reg, r = .cmd ∨ r = .txf0 ∨ r = .txf1 ∨ r = .txb0 ∨ r = .txb1 ∨ r = .txlen ∨ r = .tSettle ∨ r = .tDrain
          ∨ r = .tRxto →
        hostWrite r.offset 4 v s = .next { s with block := { s.block with busyWr := true } })
      ∧ hostWrite Reg.ctrl.offset 4 v s = .next { s with block := { s.block with irqEn := v.getLsbD 1 } }
      ∧ hostWrite Reg.status.offset 4 v s = .next { s with block :=
          { s.block with
            done := s.block.done && !v.getLsbD 1, rxDrop := s.block.rxDrop && !v.getLsbD 7
            busyWr := s.block.busyWr && !v.getLsbD 8 } })
    ∧ ∀ s t : State, s.rstN = true → s.block.busy = true → step s = .next t → t.rstN = true →
        t.block.txf = s.block.txf ∧ t.block.txbuf = s.block.txbuf ∧ t.block.txlen = s.block.txlen
          ∧ t.block.tSettle = s.block.tSettle ∧ t.block.tDrain = s.block.tDrain ∧ t.block.tRxto = s.block.tRxto
          ∧ t.block.portEn = s.block.portEn

/-- 10_state.md R39: STATUS.BUSY is 1 exactly when the phase is not IDLE, and an immediate command never makes the phase
leave IDLE. -/
def Obligations.BusyExactlyWhenNotIdle : Prop :=
  (∀ b : Block, (b.readReg .status).getLsbD 0 = true ↔ b.phase ≠ .idle)
    ∧ ∀ (i : Instr) (s t : State), (i = .crcInit ∨ (∃ b, i = .crcFeed b) ∨ (∃ n, i = .encode n) ∨ (∃ n, i = .decode n)
          ∨ i = .validate) →
        s.block.phase = .idle → exec i s = .next t → t.block.phase = .idle

/-- What a command leaves unchanged, for all nine commands and every state and operand: the frame. Each register is
unchanged unless its rule names the command as a writer (10_state.md R25, 41_codec.md R146 to R148, 42_transport.md R174,
R178, R184, 43_transactions.md R210, R213). -/
def Obligations.CommandFrame : Prop :=
  ∀ (i : Instr) (s t : State), exec i s = .next t →
    (t.params = s.params ∧ t.rstN = s.rstN ∧ t.now = s.now ∧ t.env = s.env ∧ t.obs = s.obs)
    ∧ (t.block.portEn = s.block.portEn ∧ t.block.irqEn = s.block.irqEn ∧ t.block.rxDrop = s.block.rxDrop
        ∧ t.block.txf = s.block.txf ∧ t.block.tSettle = s.block.tSettle ∧ t.block.tDrain = s.block.tDrain
        ∧ t.block.tRxto = s.block.tRxto ∧ t.block.txIdx = s.block.txIdx)
    ∧ (s.block.busy = false → t.block.busyWr = s.block.busyWr)
    ∧ (s.block.busy = true → t.block = { s.block with busyWr := t.block.busyWr } ∧ t.draws = s.draws)
    ∧ ((∀ n, i ≠ .encode n) → i ≠ .regXact → i ≠ .coilXact →
        t.block.txbuf = s.block.txbuf ∧ t.block.txlen = s.block.txlen)
    ∧ (i = .send ∨ (∃ n, i = .decode n) ∨ (∃ n, i = .receive n) → t.block.crc = s.block.crc)
    ∧ ((∀ n, i ≠ .decode n) → t.block.rxf = s.block.rxf ∧ t.block.dlen = s.block.dlen)
    ∧ ((∀ n, i ≠ .decode n) → i ≠ .validate → t.block.valid = s.block.valid)
    ∧ ((∀ n, i ≠ .receive n) → t.block.rxbuf = s.block.rxbuf ∧ t.block.rxcnt = s.block.rxcnt
        ∧ t.block.tOpen = s.block.tOpen ∧ t.block.rxN = s.block.rxN)
    ∧ ((∀ n, i ≠ .receive n) → i ≠ .send → i ≠ .regXact → i ≠ .coilXact →
        t.block.tDead = s.block.tDead ∧ t.draws = s.draws)

/-! Reset (70_reset_and_hazards.md). -/

/-- 70_reset_and_hazards.md R270: `rst_n` going to 0 acts at once, before any other agent, and gives every register and
hidden field its reset value; while it stays 0 every register reads its reset value and the lines rest; `now` is not
reset. -/
def Obligations.ResetGivesResetValues : Prop :=
  (∀ (s : State) (e : Edge) (es : List Edge), s.env.rst = e :: es → e.time ≤ s.now → e.level = false →
      ∃ t, step s = .next t ∧ t.rstN = false ∧ t.now = s.now
        ∧ t.block =
          { portEn := false, irqEn := false, done := false, result := .ok, valid := false, rxDrop := false, busyWr := false
            rxcnt := 0, crc := 0xFFFF, txf := ⟨0, 0, 0, 0, 0, 0⟩, txbuf := #v[0, 0, 0, 0, 0, 0, 0, 0], txlen := 0
            rxbuf := #v[0, 0, 0, 0, 0, 0, 0, 0], rxf := ⟨0, 0, 0, 0, 0, 0, 0⟩, dlen := 0
            tSettle := 6000, tDrain := 4000, tRxto := 100000
            phase := .idle, op := .none, tDead := 0, tOpen := 0, txIdx := 0, rxN := 0 })
    ∧ ∀ u : State, u.rstN = false →
        u.dir = true ∧ u.txd = true ∧ u.irq = false
          ∧ (u.view.phase = .idle ∧ u.view.op = .none ∧ u.view.tDead = 0 ∧ u.view.tOpen = 0 ∧ u.view.txIdx = 0
            ∧ u.view.rxN = 0)
          ∧ ∀ r : Reg, u.view.readReg r =
              (match r with
               | .status  => 0x00000040
               | .crc     => 0x0000FFFF
               | .tSettle => 0x00001770
               | .tDrain  => 0x00000FA0
               | .tRxto   => 0x000186A0
               | _        => 0)

/-- 70_reset_and_hazards.md R271: reset aborts a running command without completing it: DONE stays 0, no result is
written, `irq` does not pulse, `dir` and `txd` return to 1, and a character on the wire stays in the trace, marked as cut
off at the reset time; and nothing but its completion or a reset ends a running command. -/
def Obligations.ResetAbortsTheCommand : Prop :=
  (∀ (s : State) (e : Edge) (es : List Edge), s.env.rst = e :: es → e.time ≤ s.now → e.level = false → s.rstN = true →
      s.block.busy = true →
      ∃ t, step s = .next t
        ∧ t.block.busy = false ∧ t.block.done = false ∧ t.block.result = .ok ∧ t.irq = false ∧ t.dir = true ∧ t.txd = true
        ∧ (∀ pre c, s.obs.txdTrace = pre ++ [c] → s.block.phase = .shift → s.now < s.block.tDead →
            t.obs.txdTrace = pre ++ [{ c with truncated := some s.now }])
        ∧ (s.block.phase ≠ .shift → t.obs.txdTrace = s.obs.txdTrace))
    ∧ ∀ s t : State, s.block.busy = true → step s = .next t → t.block.busy = false → t.rstN = false ∨ t.block.done = true

/-- 70_reset_and_hazards.md R272, first point: while `rst_n` is 0 writes and commands have no effect and set no flag, reads
return reset values, and a character is discarded without setting RX_DROP. -/
def Obligations.HeldResetIgnoresEverything : Prop :=
  ∀ s : State, s.rstN = false →
    (∀ i, exec i s = .next s) ∧ (∀ off size v, hostWrite off size v s = .next s) ∧ (∀ c, deliver c s = .next s)
      ∧ ∀ r : Reg, hostRead r.offset 4 s
          = .next { s with obs := { s.obs with reads := s.obs.reads ++ [State.reset.block.readReg r] } }

/-! The whole machine. -/

/-- When the host's next statement writes a word to CMD that decodes to i, and neither reset, Engine nor Bus is due, the
step is `exec i` on the state without that statement (30_encoding.md R95, 00_scope.md R8), and then the levels of `dir` and
`irq` are noted, once a step (the model's choice, log 16); and `withFetchWord` puts a word there (the model's choice,
log 2). A character due at the same instant, illegal words and all other accesses are in StepTakesTheDueAgent and
StepRunsTheHostStatement. -/
def Obligations.StepRunsTheDecodedCommand : Prop :=
  (∀ (s : State) (v : Word) (rest : List HostStmt) (i : Instr), s.env.host = .wr 0x08 4 v :: rest → decodeWord v = .ok i →
      s.rstN = true → s.resetDue = false → s.engineDue = false → s.busDue = false →
      ∃ u, exec i { s with env := { s.env with host := rest } } = .next u ∧ step s = .next (noteLines s u))
    ∧ ∀ (s : State) (v : Word) (i : Instr), decodeWord v = .ok i →
        s.rstN = true → s.resetDue = false → s.engineDue = false → s.busDue = false →
        ∃ u, exec i s = .next u ∧ step (s.withFetchWord 32 v.toNat) = .next (noteLines s u)

/-- 00_scope.md R8, R9: with no edge of `rst_n` due, an Engine step that is due is taken before anything else; then a
character that ends now, unless the tie order gives a ready host statement the turn (the model's own field, log 9; the Bus
goes first where it says nothing). The step is the agent's own, and then the lines are noted (log 16). -/
def Obligations.StepTakesTheDueAgent : Prop :=
  ∀ s : State, s.resetDue = false →
    (s.engineDue = true → step s = noteOutcome s (engineStep s))
    ∧ ∀ (c : BusChar) (rest : List BusChar), s.engineDue = false → s.env.bus = c :: rest → c.endTime ≤ s.now →
        (s.hostReady = false →
          step s = noteOutcome s (deliver c.byte { s with env := { s.env with bus := rest } }))
        ∧ (s.hostReady = true → s.env.ties.head? ≠ some .host →
          step s = noteOutcome s
            (deliver c.byte { s with env := { s.env with bus := rest, ties := s.env.ties.tail } }))

/-- 00_scope.md R8, 30_encoding.md R101: with neither reset nor Engine due, and no character or the turn with the Host
(log 9), the step is the host's next statement, whatever the access: RD and WR of any offset, width and word, AT at its
time (and at once when its time is past, which R101 does not treat: the model's choice, log 15), and POLL_DONE, which
reads STATUS at the statement's next time and at the first instant at which DONE is 1, and ends exactly when the value
read has DONE = 1. When the host reads again is open: the gap comes from the poll order, or is a free value (the model's
choice, log 14); the levels are noted once a step (log 16). -/
def Obligations.StepRunsTheHostStatement : Prop :=
  ∀ (s : State) (rest : List HostStmt), s.resetDue = false → s.engineDue = false →
    (s.busDue = false ∨ s.env.ties.head? = some .host) →
    let p : State :=
      { s with env := { s.env with host := rest, ties := if s.busDue then s.env.ties.tail else s.env.ties } }
    (∀ off size, s.env.host = .rd off size :: rest → step s = noteOutcome s (hostRead off size p))
      ∧ (∀ off size v, s.env.host = .wr off size v :: rest → step s = noteOutcome s (hostWrite off size v p))
      ∧ (∀ u, s.env.host = .waitUntil u :: rest → u ≤ s.now → step s = .next (noteLines s p))
      ∧ ∀ next, s.env.host = .pollDone next :: rest →
          (s.view.done = true →
            step s = .next (noteLines s { p with obs := { s.obs with reads := s.obs.reads ++ [s.view.readReg .status] } }))
          ∧ (s.view.done = false → next ≤ s.now →
            ∃ later, s.now ≤ later ∧ (∀ g gs, s.env.polls = g :: gs → later = s.now + g)
              ∧ step s = .next (noteLines s { p with
                  draws := s.draws + 1
                  env := { p.env with host := .pollDone later :: rest, polls := s.env.polls.tail }
                  obs := { s.obs with reads := s.obs.reads ++ [s.view.readReg .status] } }))

/-- The state after reset meets the invariant, and its parameters have the defaults of 00_scope.md R5. `now`, the scripts and
the released `rst_n` of that state are the model's choices (logs 2, 3, 19); the block's part is the spec's reset table. -/
def Obligations.ResetStateMeetsInvariant : Prop := 
  State.reset.Inv ∧ State.reset.TracesFit
    ∧ State.reset.params.crcVariant = .modbus ∧ State.reset.params.timerSlackNs = 0
    ∧ State.reset.params.charFormat = { dataBits := 8, parity := .none, stopBits := 1, lsbFirst := true }

/-- Every step keeps the invariant: from any state that meets it, whatever the host program, bus script and reset script,
the next state meets it. It holds the legal pairs of phase and operation, the ranges and contents of the buffers, the
held frame and VALID, the request of a running transaction, and the deadline of the running command. -/
def Obligations.StepKeepsInvariant : Prop := ∀ s t : State, s.Inv → step s = .next t → t.Inv

/-- Every step keeps the traces of `dir` and `irq` in step with the lines (00_scope.md R11). -/
def Obligations.StepKeepsTraces : Prop := ∀ s t : State, s.TracesFit → step s = .next t → t.TracesFit

/-- 00_scope.md R9: time never goes back and never passes the deadline of a running command, and a step of Time changes
nothing else; a Bus character is delivered at the instant it ends; and no host statement is taken while an Engine step is
due. -/
def Obligations.TimeRespectsDeadlines : Prop :=
  ∀ s t : State, s.Inv → step s = .next t →
    s.now ≤ t.now
      ∧ (t.now ≠ s.now → t = { s with now := t.now } ∧ (s.block.busy = true → s.now < s.block.tDead ∧ t.now ≤ s.block.tDead))
      ∧ (t.env.bus ≠ s.env.bus → ∃ c, s.env.bus = c :: t.env.bus ∧ c.endTime = s.now)
      ∧ (t.env.host ≠ s.env.host → s.engineDue = false)

/-- 00_scope.md R10: from a state of the invariant the machine stops only at a host access R61 refuses, or when the host
program is finished and no agent has anything left to do (log 13); a polling host, a command word and a bus input never
stop it, the Engine is never stuck, and nothing is refused. -/
def Obligations.MachineStopsOnlyAsTheSpecSays : Prop :=
  ∀ s : State, s.Inv →
    (∀ r, step s ≠ .refused r)
    ∧ ∀ f, step s = .fault f →
        (∃ off size rest, f = .busError off ∧ ¬(size = 4 ∧ off.toNat % 4 = 0)
          ∧ (s.env.host = .rd off size :: rest ∨ ∃ v, s.env.host = .wr off size v :: rest))
        ∨ (f = .hostFinished ∧ s.env.host = [] ∧ s.block.busy = false ∧ s.env.bus = [] ∧ s.env.rst = [])

/-- 00_scope.md R11, 70_reset_and_hazards.md R271: the values read, the edges of `dir` and `irq`, and the bytes and start times
of the `txd` trace are only ever added to at their end. Nor do the parameters change (00_scope.md R5) or the draws go back;
the counter of draws is the model's own field (log 27). -/
def Obligations.ObservationOnlyGrows : Prop :=
  ∀ s t : State, step s = .next t →
    t.params = s.params ∧ s.draws ≤ t.draws ∧ s.obs.reads <+: t.obs.reads ∧ s.obs.dirTrace <+: t.obs.dirTrace
      ∧ s.obs.irqTrace <+: t.obs.irqTrace ∧ (s.obs.txdTrace.map fun c => (c.byte, c.start)) <+: (t.obs.txdTrace.map fun c => (c.byte, c.start))

/-- 42_transport.md R170, R174, R177: `dir` falls only when the host's SEND, REG_XACT or COIL_XACT is accepted, and rises
only at the end of the drain or by reset. -/
def Obligations.DirectionLineRule : Prop :=
  ∀ s t : State, s.Inv → step s = .next t →
    (s.dir = true → t.dir = false →
      s.block.busy = false ∧ s.block.portEn = true
        ∧ ∃ v rest i, s.env.host = .wr 0x08 4 v :: rest ∧ decodeWord v = .ok i ∧ (i = .send ∨ i = .regXact ∨ i = .coilXact))
    ∧ (s.dir = false → t.dir = true → t.rstN = false ∨ (s.block.phase = .drain ∧ s.now = s.block.tDead))

/-- 10_state.md R41, 42_transport.md R172, R173: the output `txd` is 1 in every phase but SHIFT and while reset is held, and
at the default CHAR_FORMAT, it is 0 at the start of a character, the start bit. -/
def Obligations.TxdRestsOutsideShift : Prop :=
  ∀ s : State,
    (s.block.phase ≠ .shift → s.txd = true) ∧ (s.rstN = false → s.txd = true)
      ∧ (s.rstN = true → s.block.phase = .shift → s.params.charFormat = CharFormat.default8N1 → 0 < s.params.charNs →
          s.now + s.params.charNs = s.block.tDead → s.txd = false)

/-- 42_transport.md R187, 43_transactions.md R218: the block never starts a bus command by itself: only an accepted host
write of a bus command to CMD, with the port open, makes BUSY rise. -/
def Obligations.OnlyTheHostStartsABusCommand : Prop :=
  ∀ s t : State, step s = .next t → s.block.busy = false → t.block.busy = true →
    s.rstN = true ∧ s.block.portEn = true
      ∧ ∃ v rest i, s.env.host = .wr 0x08 4 v :: rest ∧ decodeWord v = .ok i
        ∧ (i = .send ∨ (∃ n, i = .receive n) ∨ i = .regXact ∨ i = .coilXact)

/-- 10_state.md R40, 42_transport.md R178, R179, R180, 43_transactions.md R219: a step changes RXBUF or RXCNT only by opening a
window, which clears both, by storing at RXBUF[RXCNT] the byte of the character it takes from the bus, wholly inside the
open window, or by reset: no byte from outside a window reaches RXBUF. (The byte of an erroneous character is a free value,
log 7.) -/
def Obligations.RxbufChangesOnlyThroughAWindow : Prop :=
  ∀ s t : State, step s = .next t →
    (t.block.rxbuf = s.block.rxbuf ∧ t.block.rxcnt = s.block.rxcnt)
    ∨ (t.block.phase = .rxwait ∧ t.block.tOpen = s.now ∧ t.block.rxcnt = 0 ∧ ∀ k, bufGet t.block.rxbuf k = 0)
    ∨ (s.block.phase = .rxwait ∧ s.block.tOpen + s.params.charNs ≤ s.now ∧ s.now < s.block.tDead
        ∧ t.block.rxcnt = s.block.rxcnt + 1
        ∧ (∃ c rest, s.env.bus = c :: rest ∧ t.env.bus = rest ∧ c.endTime ≤ s.now
          ∧ ∀ x, c.byte = some x → s.block.rxcnt.toNat < 8 → bufGet t.block.rxbuf s.block.rxcnt.toNat = x)
        ∧ ∀ k, k ≠ s.block.rxcnt.toNat → bufGet t.block.rxbuf k = bufGet s.block.rxbuf k)
    ∨ t.rstN = false

/-- 60_exceptions.md R247: BUSY_WR is set by a write ignored while BUSY and RX_DROP by a character discarded outside a
window, neither changing anything else, and each stays 1 until the host writes 1 to it or reset. -/
def Obligations.StickyFlagsStay : Prop :=
  (∀ (s : State) (r : Reg) (v : Word), s.rstN = true → s.block.busy = true →
      r = .cmd ∨ r = .txf0 ∨ r = .txf1 ∨ r = .txb0 ∨ r = .txb1 ∨ r = .txlen ∨ r = .tSettle ∨ r = .tDrain ∨ r = .tRxto →
      hostWrite r.offset 4 v s = .next { s with block := { s.block with busyWr := true } })
    ∧ (∀ (s : State) (x : Byte), s.rstN = true →
      ¬(s.block.phase = .rxwait ∧ s.block.tOpen + s.params.charNs ≤ s.now ∧ s.now < s.block.tDead) →
      deliver (some x) s = .next { s with block := { s.block with rxDrop := true } })
    ∧ ∀ s t : State, step s = .next t →
        (s.block.busyWr = true → t.block.busyWr = false →
          t.rstN = false ∨ ∃ v rest, s.env.host = .wr 0x04 4 v :: rest ∧ v.getLsbD 8 = true)
        ∧ (s.block.rxDrop = true → t.block.rxDrop = false →
          t.rstN = false ∨ ∃ v rest, s.env.host = .wr 0x04 4 v :: rest ∧ v.getLsbD 7 = true)

/-- 60_exceptions.md R250, R253: `irq` is DONE and IRQ_EN, and DONE falls only by the host's acknowledgement, by the
acceptance of the next command, or by reset; it rises only when a command completes. -/
def Obligations.CompletionIsAcknowledged : Prop :=
  (∀ s : State, s.rstN = true → s.irq = (s.block.done && s.block.irqEn))
    ∧ ∀ s t : State, step s = .next t →
        (s.block.done = true → t.block.done = false →
          t.rstN = false ∨ (∃ v rest, s.env.host = .wr 0x04 4 v :: rest ∧ v.getLsbD 1 = true)
            ∨ (s.block.busy = false ∧ ∃ v rest, s.env.host = .wr 0x08 4 v :: rest))
        ∧ (s.block.done = false → t.block.done = true →
          t.block.busy = false ∧ (s.block.busy = true ∨ ∃ v rest, s.env.host = .wr 0x08 4 v :: rest))

/-! Durations (70_reset_and_hazards.md R280, R281; 42_transport.md R187). -/

/-- 70_reset_and_hazards.md R281: at the acceptance of a command its bound `State.completesBy` is at most
`1000 * (T_SETTLE + T_DRAIN + T_RXTO) + 8 * T_CHAR_NS` ns ahead, up to the slack of its three timed phases (0 by default,
log 4); and, from a state of the invariant with nothing else left to happen, the command completes by then, in at most 24
steps. -/
def Obligations.AcceptedCommandBound : Prop :=
  ∀ (i : Instr) (s t : State), s.ready = true → exec i s = .next t →
    let bound := s.now + 1000 * (s.block.tSettle.toNat + s.block.tDrain.toNat + s.block.tRxto.toNat) + 8 * s.params.charNs
      + 3 * s.params.timerSlackNs
    t.completesBy ≤ bound
      ∧ (s.Inv → s.quiet →
          ∃ (n : Nat) (u : State), n ≤ 24 ∧ steps n t = .next u ∧ u.block.busy = false ∧ u.block.done = true ∧ u.now ≤ bound)

/-- 70_reset_and_hazards.md R281: no host action, bus input or passing of time extends a running command: the time by which
it has completed never grows, and is never in the past. -/
def Obligations.NothingExtendsARunningCommand : Prop :=
  ∀ s t : State, s.Inv → s.block.busy = true → step s = .next t → t.block.busy = true →
    t.completesBy ≤ s.completesBy ∧ t.now ≤ t.completesBy

/-- 60_exceptions.md R260, 00_scope.md R10: with nothing else left to happen, a running bus command completes, in at most
24 steps and by the time the bound gives. -/
def Obligations.RunningCommandCompletes : Prop :=
  ∀ s : State, s.Inv → s.block.busy = true → s.quiet →
    ∃ (n : Nat) (t : State), n ≤ 24 ∧ steps n s = .next t ∧ t.block.busy = false ∧ t.block.done = true
      ∧ t.now ≤ s.completesBy

/-- 42_transport.md R174 to R177, R187, 70_reset_and_hazards.md R280: with exact timers (TIMER_SLACK_NS at its default 0)
and nothing else happening, a SEND takes exactly `1000*T_SETTLE + TXLEN*T_CHAR_NS + 1000*T_DRAIN` ns, sends every byte of
TXBUF[0 .. TXLEN-1] once, in order and back to back from the end of the settle, and completes with OK. -/
def Obligations.SendTakesExactly : Prop :=
  ∀ s u : State, s.ready = true → s.block.portEn = true → 1 ≤ s.block.txlen.toNat → s.block.txlen.toNat ≤ 8 → s.quiet →
    s.params.timerSlackNs = 0 → exec .send s = .next u →
    ∃ (n : Nat) (t : State), steps n u = .next t
      ∧ t.now = s.now + 1000 * s.block.tSettle.toNat + s.block.txlen.toNat * s.params.charNs + 1000 * s.block.tDrain.toNat
      ∧ t.block = { s.block with
          done := true, result := .ok, phase := .idle, op := .none, txIdx := s.block.txlen.toNat, tDead := t.now }
      ∧ t.obs.txdTrace =
          s.obs.txdTrace ++ txChars s.params.charNs (s.now + 1000 * s.block.tSettle.toNat) s.block.txBytes
end

