-- ==== Sys2Proof/Laws/State.lean ====
section
/-! SUPPORT. One lemma for each field of each update of the block and of the state, each true by unfolding the update,
so that no later proof unfolds a record update. -/

namespace Sys2Proof.Machine

/-! `complete(code)` writes RESULT, DONE, phase and op (60_exceptions.md R241): field by field. -/

@[simp] theorem Block.complete_portEn (c : Result) (b : Block) : (b.complete c).portEn = b.portEn := rfl
@[simp] theorem Block.complete_irqEn (c : Result) (b : Block) : (b.complete c).irqEn = b.irqEn := rfl
@[simp] theorem Block.complete_done (c : Result) (b : Block) : (b.complete c).done = true := rfl
@[simp] theorem Block.complete_result (c : Result) (b : Block) : (b.complete c).result = c := rfl
@[simp] theorem Block.complete_valid (c : Result) (b : Block) : (b.complete c).valid = b.valid := rfl
@[simp] theorem Block.complete_rxDrop (c : Result) (b : Block) : (b.complete c).rxDrop = b.rxDrop := rfl
@[simp] theorem Block.complete_busyWr (c : Result) (b : Block) : (b.complete c).busyWr = b.busyWr := rfl
@[simp] theorem Block.complete_rxcnt (c : Result) (b : Block) : (b.complete c).rxcnt = b.rxcnt := rfl
@[simp] theorem Block.complete_crc (c : Result) (b : Block) : (b.complete c).crc = b.crc := rfl
@[simp] theorem Block.complete_txf (c : Result) (b : Block) : (b.complete c).txf = b.txf := rfl
@[simp] theorem Block.complete_txbuf (c : Result) (b : Block) : (b.complete c).txbuf = b.txbuf := rfl
@[simp] theorem Block.complete_txlen (c : Result) (b : Block) : (b.complete c).txlen = b.txlen := rfl
@[simp] theorem Block.complete_rxbuf (c : Result) (b : Block) : (b.complete c).rxbuf = b.rxbuf := rfl
@[simp] theorem Block.complete_rxf (c : Result) (b : Block) : (b.complete c).rxf = b.rxf := rfl
@[simp] theorem Block.complete_dlen (c : Result) (b : Block) : (b.complete c).dlen = b.dlen := rfl
@[simp] theorem Block.complete_tSettle (c : Result) (b : Block) : (b.complete c).tSettle = b.tSettle := rfl
@[simp] theorem Block.complete_tDrain (c : Result) (b : Block) : (b.complete c).tDrain = b.tDrain := rfl
@[simp] theorem Block.complete_tRxto (c : Result) (b : Block) : (b.complete c).tRxto = b.tRxto := rfl
@[simp] theorem Block.complete_phase (c : Result) (b : Block) : (b.complete c).phase = .idle := rfl
@[simp] theorem Block.complete_op (c : Result) (b : Block) : (b.complete c).op = .none := rfl
@[simp] theorem Block.complete_tDead (c : Result) (b : Block) : (b.complete c).tDead = b.tDead := rfl
@[simp] theorem Block.complete_tOpen (c : Result) (b : Block) : (b.complete c).tOpen = b.tOpen := rfl
@[simp] theorem Block.complete_txIdx (c : Result) (b : Block) : (b.complete c).txIdx = b.txIdx := rfl
@[simp] theorem Block.complete_rxN (c : Result) (b : Block) : (b.complete c).rxN = b.rxN := rfl

/-! Acceptance writes DONE and RESULT (30_encoding.md R95): field by field. -/

@[simp] theorem Block.accept_portEn (b : Block) : (b.accept).portEn = b.portEn := rfl
@[simp] theorem Block.accept_irqEn (b : Block) : (b.accept).irqEn = b.irqEn := rfl
@[simp] theorem Block.accept_done (b : Block) : (b.accept).done = false := rfl
@[simp] theorem Block.accept_result (b : Block) : (b.accept).result = .ok := rfl
@[simp] theorem Block.accept_valid (b : Block) : (b.accept).valid = b.valid := rfl
@[simp] theorem Block.accept_rxDrop (b : Block) : (b.accept).rxDrop = b.rxDrop := rfl
@[simp] theorem Block.accept_busyWr (b : Block) : (b.accept).busyWr = b.busyWr := rfl
@[simp] theorem Block.accept_rxcnt (b : Block) : (b.accept).rxcnt = b.rxcnt := rfl
@[simp] theorem Block.accept_crc (b : Block) : (b.accept).crc = b.crc := rfl
@[simp] theorem Block.accept_txf (b : Block) : (b.accept).txf = b.txf := rfl
@[simp] theorem Block.accept_txbuf (b : Block) : (b.accept).txbuf = b.txbuf := rfl
@[simp] theorem Block.accept_txlen (b : Block) : (b.accept).txlen = b.txlen := rfl
@[simp] theorem Block.accept_rxbuf (b : Block) : (b.accept).rxbuf = b.rxbuf := rfl
@[simp] theorem Block.accept_rxf (b : Block) : (b.accept).rxf = b.rxf := rfl
@[simp] theorem Block.accept_dlen (b : Block) : (b.accept).dlen = b.dlen := rfl
@[simp] theorem Block.accept_tSettle (b : Block) : (b.accept).tSettle = b.tSettle := rfl
@[simp] theorem Block.accept_tDrain (b : Block) : (b.accept).tDrain = b.tDrain := rfl
@[simp] theorem Block.accept_tRxto (b : Block) : (b.accept).tRxto = b.tRxto := rfl
@[simp] theorem Block.accept_phase (b : Block) : (b.accept).phase = b.phase := rfl
@[simp] theorem Block.accept_op (b : Block) : (b.accept).op = b.op := rfl
@[simp] theorem Block.accept_tDead (b : Block) : (b.accept).tDead = b.tDead := rfl
@[simp] theorem Block.accept_tOpen (b : Block) : (b.accept).tOpen = b.tOpen := rfl
@[simp] theorem Block.accept_txIdx (b : Block) : (b.accept).txIdx = b.txIdx := rfl
@[simp] theorem Block.accept_rxN (b : Block) : (b.accept).rxN = b.rxN := rfl

/-! An ignored write sets BUSY_WR (20_memory.md R65): field by field. -/

@[simp] theorem Block.markBusyWr_portEn (b : Block) : (b.markBusyWr).portEn = b.portEn := rfl
@[simp] theorem Block.markBusyWr_irqEn (b : Block) : (b.markBusyWr).irqEn = b.irqEn := rfl
@[simp] theorem Block.markBusyWr_done (b : Block) : (b.markBusyWr).done = b.done := rfl
@[simp] theorem Block.markBusyWr_result (b : Block) : (b.markBusyWr).result = b.result := rfl
@[simp] theorem Block.markBusyWr_valid (b : Block) : (b.markBusyWr).valid = b.valid := rfl
@[simp] theorem Block.markBusyWr_rxDrop (b : Block) : (b.markBusyWr).rxDrop = b.rxDrop := rfl
@[simp] theorem Block.markBusyWr_busyWr (b : Block) : (b.markBusyWr).busyWr = true := rfl
@[simp] theorem Block.markBusyWr_rxcnt (b : Block) : (b.markBusyWr).rxcnt = b.rxcnt := rfl
@[simp] theorem Block.markBusyWr_crc (b : Block) : (b.markBusyWr).crc = b.crc := rfl
@[simp] theorem Block.markBusyWr_txf (b : Block) : (b.markBusyWr).txf = b.txf := rfl
@[simp] theorem Block.markBusyWr_txbuf (b : Block) : (b.markBusyWr).txbuf = b.txbuf := rfl
@[simp] theorem Block.markBusyWr_txlen (b : Block) : (b.markBusyWr).txlen = b.txlen := rfl
@[simp] theorem Block.markBusyWr_rxbuf (b : Block) : (b.markBusyWr).rxbuf = b.rxbuf := rfl
@[simp] theorem Block.markBusyWr_rxf (b : Block) : (b.markBusyWr).rxf = b.rxf := rfl
@[simp] theorem Block.markBusyWr_dlen (b : Block) : (b.markBusyWr).dlen = b.dlen := rfl
@[simp] theorem Block.markBusyWr_tSettle (b : Block) : (b.markBusyWr).tSettle = b.tSettle := rfl
@[simp] theorem Block.markBusyWr_tDrain (b : Block) : (b.markBusyWr).tDrain = b.tDrain := rfl
@[simp] theorem Block.markBusyWr_tRxto (b : Block) : (b.markBusyWr).tRxto = b.tRxto := rfl
@[simp] theorem Block.markBusyWr_phase (b : Block) : (b.markBusyWr).phase = b.phase := rfl
@[simp] theorem Block.markBusyWr_op (b : Block) : (b.markBusyWr).op = b.op := rfl
@[simp] theorem Block.markBusyWr_tDead (b : Block) : (b.markBusyWr).tDead = b.tDead := rfl
@[simp] theorem Block.markBusyWr_tOpen (b : Block) : (b.markBusyWr).tOpen = b.tOpen := rfl
@[simp] theorem Block.markBusyWr_txIdx (b : Block) : (b.markBusyWr).txIdx = b.txIdx := rfl
@[simp] theorem Block.markBusyWr_rxN (b : Block) : (b.markBusyWr).rxN = b.rxN := rfl

/-! A dropped character sets RX_DROP (42_transport.md R180): field by field. -/

@[simp] theorem Block.dropChar_portEn (b : Block) : (b.dropChar).portEn = b.portEn := rfl
@[simp] theorem Block.dropChar_irqEn (b : Block) : (b.dropChar).irqEn = b.irqEn := rfl
@[simp] theorem Block.dropChar_done (b : Block) : (b.dropChar).done = b.done := rfl
@[simp] theorem Block.dropChar_result (b : Block) : (b.dropChar).result = b.result := rfl
@[simp] theorem Block.dropChar_valid (b : Block) : (b.dropChar).valid = b.valid := rfl
@[simp] theorem Block.dropChar_rxDrop (b : Block) : (b.dropChar).rxDrop = true := rfl
@[simp] theorem Block.dropChar_busyWr (b : Block) : (b.dropChar).busyWr = b.busyWr := rfl
@[simp] theorem Block.dropChar_rxcnt (b : Block) : (b.dropChar).rxcnt = b.rxcnt := rfl
@[simp] theorem Block.dropChar_crc (b : Block) : (b.dropChar).crc = b.crc := rfl
@[simp] theorem Block.dropChar_txf (b : Block) : (b.dropChar).txf = b.txf := rfl
@[simp] theorem Block.dropChar_txbuf (b : Block) : (b.dropChar).txbuf = b.txbuf := rfl
@[simp] theorem Block.dropChar_txlen (b : Block) : (b.dropChar).txlen = b.txlen := rfl
@[simp] theorem Block.dropChar_rxbuf (b : Block) : (b.dropChar).rxbuf = b.rxbuf := rfl
@[simp] theorem Block.dropChar_rxf (b : Block) : (b.dropChar).rxf = b.rxf := rfl
@[simp] theorem Block.dropChar_dlen (b : Block) : (b.dropChar).dlen = b.dlen := rfl
@[simp] theorem Block.dropChar_tSettle (b : Block) : (b.dropChar).tSettle = b.tSettle := rfl
@[simp] theorem Block.dropChar_tDrain (b : Block) : (b.dropChar).tDrain = b.tDrain := rfl
@[simp] theorem Block.dropChar_tRxto (b : Block) : (b.dropChar).tRxto = b.tRxto := rfl
@[simp] theorem Block.dropChar_phase (b : Block) : (b.dropChar).phase = b.phase := rfl
@[simp] theorem Block.dropChar_op (b : Block) : (b.dropChar).op = b.op := rfl
@[simp] theorem Block.dropChar_tDead (b : Block) : (b.dropChar).tDead = b.tDead := rfl
@[simp] theorem Block.dropChar_tOpen (b : Block) : (b.dropChar).tOpen = b.tOpen := rfl
@[simp] theorem Block.dropChar_txIdx (b : Block) : (b.dropChar).txIdx = b.txIdx := rfl
@[simp] theorem Block.dropChar_rxN (b : Block) : (b.dropChar).rxN = b.rxN := rfl

/-! A STATUS write clears W1C bits (20_memory.md R64): field by field. -/

@[simp] theorem Block.writeStatus_portEn (b : Block) (v : Word) : (b.writeStatus v).portEn = b.portEn := rfl
@[simp] theorem Block.writeStatus_irqEn (b : Block) (v : Word) : (b.writeStatus v).irqEn = b.irqEn := rfl
@[simp] theorem Block.writeStatus_done (b : Block) (v : Word) : (b.writeStatus v).done = (b.done && !v.getLsbD 1) := rfl
@[simp] theorem Block.writeStatus_result (b : Block) (v : Word) : (b.writeStatus v).result = b.result := rfl
@[simp] theorem Block.writeStatus_valid (b : Block) (v : Word) : (b.writeStatus v).valid = b.valid := rfl
@[simp] theorem Block.writeStatus_rxDrop (b : Block) (v : Word) : (b.writeStatus v).rxDrop = (b.rxDrop && !v.getLsbD 7) := rfl
@[simp] theorem Block.writeStatus_busyWr (b : Block) (v : Word) : (b.writeStatus v).busyWr = (b.busyWr && !v.getLsbD 8) := rfl
@[simp] theorem Block.writeStatus_rxcnt (b : Block) (v : Word) : (b.writeStatus v).rxcnt = b.rxcnt := rfl
@[simp] theorem Block.writeStatus_crc (b : Block) (v : Word) : (b.writeStatus v).crc = b.crc := rfl
@[simp] theorem Block.writeStatus_txf (b : Block) (v : Word) : (b.writeStatus v).txf = b.txf := rfl
@[simp] theorem Block.writeStatus_txbuf (b : Block) (v : Word) : (b.writeStatus v).txbuf = b.txbuf := rfl
@[simp] theorem Block.writeStatus_txlen (b : Block) (v : Word) : (b.writeStatus v).txlen = b.txlen := rfl
@[simp] theorem Block.writeStatus_rxbuf (b : Block) (v : Word) : (b.writeStatus v).rxbuf = b.rxbuf := rfl
@[simp] theorem Block.writeStatus_rxf (b : Block) (v : Word) : (b.writeStatus v).rxf = b.rxf := rfl
@[simp] theorem Block.writeStatus_dlen (b : Block) (v : Word) : (b.writeStatus v).dlen = b.dlen := rfl
@[simp] theorem Block.writeStatus_tSettle (b : Block) (v : Word) : (b.writeStatus v).tSettle = b.tSettle := rfl
@[simp] theorem Block.writeStatus_tDrain (b : Block) (v : Word) : (b.writeStatus v).tDrain = b.tDrain := rfl
@[simp] theorem Block.writeStatus_tRxto (b : Block) (v : Word) : (b.writeStatus v).tRxto = b.tRxto := rfl
@[simp] theorem Block.writeStatus_phase (b : Block) (v : Word) : (b.writeStatus v).phase = b.phase := rfl
@[simp] theorem Block.writeStatus_op (b : Block) (v : Word) : (b.writeStatus v).op = b.op := rfl
@[simp] theorem Block.writeStatus_tDead (b : Block) (v : Word) : (b.writeStatus v).tDead = b.tDead := rfl
@[simp] theorem Block.writeStatus_tOpen (b : Block) (v : Word) : (b.writeStatus v).tOpen = b.tOpen := rfl
@[simp] theorem Block.writeStatus_txIdx (b : Block) (v : Word) : (b.writeStatus v).txIdx = b.txIdx := rfl
@[simp] theorem Block.writeStatus_rxN (b : Block) (v : Word) : (b.writeStatus v).rxN = b.rxN := rfl

/-! A CTRL write writes IRQ_EN and PORT_EN (20_memory.md R64, R65): field by field. -/

@[simp] theorem Block.writeCtrl_portEn (b : Block) (v : Word) : (b.writeCtrl v).portEn = (if b.busy then b.portEn else v.getLsbD 0) := rfl
@[simp] theorem Block.writeCtrl_irqEn (b : Block) (v : Word) : (b.writeCtrl v).irqEn = v.getLsbD 1 := rfl
@[simp] theorem Block.writeCtrl_done (b : Block) (v : Word) : (b.writeCtrl v).done = b.done := rfl
@[simp] theorem Block.writeCtrl_result (b : Block) (v : Word) : (b.writeCtrl v).result = b.result := rfl
@[simp] theorem Block.writeCtrl_valid (b : Block) (v : Word) : (b.writeCtrl v).valid = b.valid := rfl
@[simp] theorem Block.writeCtrl_rxDrop (b : Block) (v : Word) : (b.writeCtrl v).rxDrop = b.rxDrop := rfl
@[simp] theorem Block.writeCtrl_busyWr (b : Block) (v : Word) : (b.writeCtrl v).busyWr = b.busyWr := rfl
@[simp] theorem Block.writeCtrl_rxcnt (b : Block) (v : Word) : (b.writeCtrl v).rxcnt = b.rxcnt := rfl
@[simp] theorem Block.writeCtrl_crc (b : Block) (v : Word) : (b.writeCtrl v).crc = b.crc := rfl
@[simp] theorem Block.writeCtrl_txf (b : Block) (v : Word) : (b.writeCtrl v).txf = b.txf := rfl
@[simp] theorem Block.writeCtrl_txbuf (b : Block) (v : Word) : (b.writeCtrl v).txbuf = b.txbuf := rfl
@[simp] theorem Block.writeCtrl_txlen (b : Block) (v : Word) : (b.writeCtrl v).txlen = b.txlen := rfl
@[simp] theorem Block.writeCtrl_rxbuf (b : Block) (v : Word) : (b.writeCtrl v).rxbuf = b.rxbuf := rfl
@[simp] theorem Block.writeCtrl_rxf (b : Block) (v : Word) : (b.writeCtrl v).rxf = b.rxf := rfl
@[simp] theorem Block.writeCtrl_dlen (b : Block) (v : Word) : (b.writeCtrl v).dlen = b.dlen := rfl
@[simp] theorem Block.writeCtrl_tSettle (b : Block) (v : Word) : (b.writeCtrl v).tSettle = b.tSettle := rfl
@[simp] theorem Block.writeCtrl_tDrain (b : Block) (v : Word) : (b.writeCtrl v).tDrain = b.tDrain := rfl
@[simp] theorem Block.writeCtrl_tRxto (b : Block) (v : Word) : (b.writeCtrl v).tRxto = b.tRxto := rfl
@[simp] theorem Block.writeCtrl_phase (b : Block) (v : Word) : (b.writeCtrl v).phase = b.phase := rfl
@[simp] theorem Block.writeCtrl_op (b : Block) (v : Word) : (b.writeCtrl v).op = b.op := rfl
@[simp] theorem Block.writeCtrl_tDead (b : Block) (v : Word) : (b.writeCtrl v).tDead = b.tDead := rfl
@[simp] theorem Block.writeCtrl_tOpen (b : Block) (v : Word) : (b.writeCtrl v).tOpen = b.tOpen := rfl
@[simp] theorem Block.writeCtrl_txIdx (b : Block) (v : Word) : (b.writeCtrl v).txIdx = b.txIdx := rfl
@[simp] theorem Block.writeCtrl_rxN (b : Block) (v : Word) : (b.writeCtrl v).rxN = b.rxN := rfl

/-! `clear_rxf` (41_codec.md R147): field by field. -/

@[simp] theorem Block.clearRxf_portEn (b : Block) : (b.clearRxf).portEn = b.portEn := rfl
@[simp] theorem Block.clearRxf_irqEn (b : Block) : (b.clearRxf).irqEn = b.irqEn := rfl
@[simp] theorem Block.clearRxf_done (b : Block) : (b.clearRxf).done = b.done := rfl
@[simp] theorem Block.clearRxf_result (b : Block) : (b.clearRxf).result = b.result := rfl
@[simp] theorem Block.clearRxf_valid (b : Block) : (b.clearRxf).valid = false := rfl
@[simp] theorem Block.clearRxf_rxDrop (b : Block) : (b.clearRxf).rxDrop = b.rxDrop := rfl
@[simp] theorem Block.clearRxf_busyWr (b : Block) : (b.clearRxf).busyWr = b.busyWr := rfl
@[simp] theorem Block.clearRxf_rxcnt (b : Block) : (b.clearRxf).rxcnt = b.rxcnt := rfl
@[simp] theorem Block.clearRxf_crc (b : Block) : (b.clearRxf).crc = b.crc := rfl
@[simp] theorem Block.clearRxf_txf (b : Block) : (b.clearRxf).txf = b.txf := rfl
@[simp] theorem Block.clearRxf_txbuf (b : Block) : (b.clearRxf).txbuf = b.txbuf := rfl
@[simp] theorem Block.clearRxf_txlen (b : Block) : (b.clearRxf).txlen = b.txlen := rfl
@[simp] theorem Block.clearRxf_rxbuf (b : Block) : (b.clearRxf).rxbuf = b.rxbuf := rfl
@[simp] theorem Block.clearRxf_rxf (b : Block) : (b.clearRxf).rxf = rxFieldsZero := rfl
@[simp] theorem Block.clearRxf_dlen (b : Block) : (b.clearRxf).dlen = 0 := rfl
@[simp] theorem Block.clearRxf_tSettle (b : Block) : (b.clearRxf).tSettle = b.tSettle := rfl
@[simp] theorem Block.clearRxf_tDrain (b : Block) : (b.clearRxf).tDrain = b.tDrain := rfl
@[simp] theorem Block.clearRxf_tRxto (b : Block) : (b.clearRxf).tRxto = b.tRxto := rfl
@[simp] theorem Block.clearRxf_phase (b : Block) : (b.clearRxf).phase = b.phase := rfl
@[simp] theorem Block.clearRxf_op (b : Block) : (b.clearRxf).op = b.op := rfl
@[simp] theorem Block.clearRxf_tDead (b : Block) : (b.clearRxf).tDead = b.tDead := rfl
@[simp] theorem Block.clearRxf_tOpen (b : Block) : (b.clearRxf).tOpen = b.tOpen := rfl
@[simp] theorem Block.clearRxf_txIdx (b : Block) : (b.clearRxf).txIdx = b.txIdx := rfl
@[simp] theorem Block.clearRxf_rxN (b : Block) : (b.clearRxf).rxN = b.rxN := rfl

/-! `load_rxf` (41_codec.md R147): field by field. -/

@[simp] theorem Block.loadRxf_portEn (n : Nat) (f : Frame) (b : Block) : (b.loadRxf n f).portEn = b.portEn := rfl
@[simp] theorem Block.loadRxf_irqEn (n : Nat) (f : Frame) (b : Block) : (b.loadRxf n f).irqEn = b.irqEn := rfl
@[simp] theorem Block.loadRxf_done (n : Nat) (f : Frame) (b : Block) : (b.loadRxf n f).done = b.done := rfl
@[simp] theorem Block.loadRxf_result (n : Nat) (f : Frame) (b : Block) : (b.loadRxf n f).result = b.result := rfl
@[simp] theorem Block.loadRxf_valid (n : Nat) (f : Frame) (b : Block) : (b.loadRxf n f).valid = false := rfl
@[simp] theorem Block.loadRxf_rxDrop (n : Nat) (f : Frame) (b : Block) : (b.loadRxf n f).rxDrop = b.rxDrop := rfl
@[simp] theorem Block.loadRxf_busyWr (n : Nat) (f : Frame) (b : Block) : (b.loadRxf n f).busyWr = b.busyWr := rfl
@[simp] theorem Block.loadRxf_rxcnt (n : Nat) (f : Frame) (b : Block) : (b.loadRxf n f).rxcnt = b.rxcnt := rfl
@[simp] theorem Block.loadRxf_crc (n : Nat) (f : Frame) (b : Block) : (b.loadRxf n f).crc = b.crc := rfl
@[simp] theorem Block.loadRxf_txf (n : Nat) (f : Frame) (b : Block) : (b.loadRxf n f).txf = b.txf := rfl
@[simp] theorem Block.loadRxf_txbuf (n : Nat) (f : Frame) (b : Block) : (b.loadRxf n f).txbuf = b.txbuf := rfl
@[simp] theorem Block.loadRxf_txlen (n : Nat) (f : Frame) (b : Block) : (b.loadRxf n f).txlen = b.txlen := rfl
@[simp] theorem Block.loadRxf_rxbuf (n : Nat) (f : Frame) (b : Block) : (b.loadRxf n f).rxbuf = b.rxbuf := rfl
@[simp] theorem Block.loadRxf_rxf (n : Nat) (f : Frame) (b : Block) : (b.loadRxf n f).rxf = rxFieldsOf f := rfl
@[simp] theorem Block.loadRxf_dlen (n : Nat) (f : Frame) (b : Block) : (b.loadRxf n f).dlen = BitVec.ofNat 3 (n - 4) := rfl
@[simp] theorem Block.loadRxf_tSettle (n : Nat) (f : Frame) (b : Block) : (b.loadRxf n f).tSettle = b.tSettle := rfl
@[simp] theorem Block.loadRxf_tDrain (n : Nat) (f : Frame) (b : Block) : (b.loadRxf n f).tDrain = b.tDrain := rfl
@[simp] theorem Block.loadRxf_tRxto (n : Nat) (f : Frame) (b : Block) : (b.loadRxf n f).tRxto = b.tRxto := rfl
@[simp] theorem Block.loadRxf_phase (n : Nat) (f : Frame) (b : Block) : (b.loadRxf n f).phase = b.phase := rfl
@[simp] theorem Block.loadRxf_op (n : Nat) (f : Frame) (b : Block) : (b.loadRxf n f).op = b.op := rfl
@[simp] theorem Block.loadRxf_tDead (n : Nat) (f : Frame) (b : Block) : (b.loadRxf n f).tDead = b.tDead := rfl
@[simp] theorem Block.loadRxf_tOpen (n : Nat) (f : Frame) (b : Block) : (b.loadRxf n f).tOpen = b.tOpen := rfl
@[simp] theorem Block.loadRxf_txIdx (n : Nat) (f : Frame) (b : Block) : (b.loadRxf n f).txIdx = b.txIdx := rfl
@[simp] theorem Block.loadRxf_rxN (n : Nat) (f : Frame) (b : Block) : (b.loadRxf n f).rxN = b.rxN := rfl

/-! `encode_into_txbuf` (41_codec.md R146): field by field. -/

@[simp] theorem Block.encodeIntoTxbuf_portEn (v : CrcVariant) (n : Nat) (b : Block) : (b.encodeIntoTxbuf v n).portEn = b.portEn := rfl
@[simp] theorem Block.encodeIntoTxbuf_irqEn (v : CrcVariant) (n : Nat) (b : Block) : (b.encodeIntoTxbuf v n).irqEn = b.irqEn := rfl
@[simp] theorem Block.encodeIntoTxbuf_done (v : CrcVariant) (n : Nat) (b : Block) : (b.encodeIntoTxbuf v n).done = b.done := rfl
@[simp] theorem Block.encodeIntoTxbuf_result (v : CrcVariant) (n : Nat) (b : Block) : (b.encodeIntoTxbuf v n).result = b.result := rfl
@[simp] theorem Block.encodeIntoTxbuf_valid (v : CrcVariant) (n : Nat) (b : Block) : (b.encodeIntoTxbuf v n).valid = b.valid := rfl
@[simp] theorem Block.encodeIntoTxbuf_rxDrop (v : CrcVariant) (n : Nat) (b : Block) : (b.encodeIntoTxbuf v n).rxDrop = b.rxDrop := rfl
@[simp] theorem Block.encodeIntoTxbuf_busyWr (v : CrcVariant) (n : Nat) (b : Block) : (b.encodeIntoTxbuf v n).busyWr = b.busyWr := rfl
@[simp] theorem Block.encodeIntoTxbuf_rxcnt (v : CrcVariant) (n : Nat) (b : Block) : (b.encodeIntoTxbuf v n).rxcnt = b.rxcnt := rfl
@[simp] theorem Block.encodeIntoTxbuf_crc (v : CrcVariant) (n : Nat) (b : Block) : (b.encodeIntoTxbuf v n).crc = (b.txFrame v n).crc := rfl
@[simp] theorem Block.encodeIntoTxbuf_txf (v : CrcVariant) (n : Nat) (b : Block) : (b.encodeIntoTxbuf v n).txf = b.txf := rfl
@[simp] theorem Block.encodeIntoTxbuf_txbuf (v : CrcVariant) (n : Nat) (b : Block) : (b.encodeIntoTxbuf v n).txbuf = bufOf fun k => (encodeBytes (b.txFrame v n)).getD k 0 := rfl
@[simp] theorem Block.encodeIntoTxbuf_txlen (v : CrcVariant) (n : Nat) (b : Block) : (b.encodeIntoTxbuf v n).txlen = BitVec.ofNat 4 (n + 4) := rfl
@[simp] theorem Block.encodeIntoTxbuf_rxbuf (v : CrcVariant) (n : Nat) (b : Block) : (b.encodeIntoTxbuf v n).rxbuf = b.rxbuf := rfl
@[simp] theorem Block.encodeIntoTxbuf_rxf (v : CrcVariant) (n : Nat) (b : Block) : (b.encodeIntoTxbuf v n).rxf = b.rxf := rfl
@[simp] theorem Block.encodeIntoTxbuf_dlen (v : CrcVariant) (n : Nat) (b : Block) : (b.encodeIntoTxbuf v n).dlen = b.dlen := rfl
@[simp] theorem Block.encodeIntoTxbuf_tSettle (v : CrcVariant) (n : Nat) (b : Block) : (b.encodeIntoTxbuf v n).tSettle = b.tSettle := rfl
@[simp] theorem Block.encodeIntoTxbuf_tDrain (v : CrcVariant) (n : Nat) (b : Block) : (b.encodeIntoTxbuf v n).tDrain = b.tDrain := rfl
@[simp] theorem Block.encodeIntoTxbuf_tRxto (v : CrcVariant) (n : Nat) (b : Block) : (b.encodeIntoTxbuf v n).tRxto = b.tRxto := rfl
@[simp] theorem Block.encodeIntoTxbuf_phase (v : CrcVariant) (n : Nat) (b : Block) : (b.encodeIntoTxbuf v n).phase = b.phase := rfl
@[simp] theorem Block.encodeIntoTxbuf_op (v : CrcVariant) (n : Nat) (b : Block) : (b.encodeIntoTxbuf v n).op = b.op := rfl
@[simp] theorem Block.encodeIntoTxbuf_tDead (v : CrcVariant) (n : Nat) (b : Block) : (b.encodeIntoTxbuf v n).tDead = b.tDead := rfl
@[simp] theorem Block.encodeIntoTxbuf_tOpen (v : CrcVariant) (n : Nat) (b : Block) : (b.encodeIntoTxbuf v n).tOpen = b.tOpen := rfl
@[simp] theorem Block.encodeIntoTxbuf_txIdx (v : CrcVariant) (n : Nat) (b : Block) : (b.encodeIntoTxbuf v n).txIdx = b.txIdx := rfl
@[simp] theorem Block.encodeIntoTxbuf_rxN (v : CrcVariant) (n : Nat) (b : Block) : (b.encodeIntoTxbuf v n).rxN = b.rxN := rfl

/-! A stored character (42_transport.md R179): field by field. -/

@[simp] theorem Block.storeChar_portEn (x : Byte) (b : Block) : (b.storeChar x).portEn = b.portEn := rfl
@[simp] theorem Block.storeChar_irqEn (x : Byte) (b : Block) : (b.storeChar x).irqEn = b.irqEn := rfl
@[simp] theorem Block.storeChar_done (x : Byte) (b : Block) : (b.storeChar x).done = b.done := rfl
@[simp] theorem Block.storeChar_result (x : Byte) (b : Block) : (b.storeChar x).result = b.result := rfl
@[simp] theorem Block.storeChar_valid (x : Byte) (b : Block) : (b.storeChar x).valid = b.valid := rfl
@[simp] theorem Block.storeChar_rxDrop (x : Byte) (b : Block) : (b.storeChar x).rxDrop = b.rxDrop := rfl
@[simp] theorem Block.storeChar_busyWr (x : Byte) (b : Block) : (b.storeChar x).busyWr = b.busyWr := rfl
@[simp] theorem Block.storeChar_rxcnt (x : Byte) (b : Block) : (b.storeChar x).rxcnt = b.rxcnt + 1 := rfl
@[simp] theorem Block.storeChar_crc (x : Byte) (b : Block) : (b.storeChar x).crc = b.crc := rfl
@[simp] theorem Block.storeChar_txf (x : Byte) (b : Block) : (b.storeChar x).txf = b.txf := rfl
@[simp] theorem Block.storeChar_txbuf (x : Byte) (b : Block) : (b.storeChar x).txbuf = b.txbuf := rfl
@[simp] theorem Block.storeChar_txlen (x : Byte) (b : Block) : (b.storeChar x).txlen = b.txlen := rfl
@[simp] theorem Block.storeChar_rxbuf (x : Byte) (b : Block) : (b.storeChar x).rxbuf = bufSet b.rxbuf b.rxcnt.toNat x := rfl
@[simp] theorem Block.storeChar_rxf (x : Byte) (b : Block) : (b.storeChar x).rxf = b.rxf := rfl
@[simp] theorem Block.storeChar_dlen (x : Byte) (b : Block) : (b.storeChar x).dlen = b.dlen := rfl
@[simp] theorem Block.storeChar_tSettle (x : Byte) (b : Block) : (b.storeChar x).tSettle = b.tSettle := rfl
@[simp] theorem Block.storeChar_tDrain (x : Byte) (b : Block) : (b.storeChar x).tDrain = b.tDrain := rfl
@[simp] theorem Block.storeChar_tRxto (x : Byte) (b : Block) : (b.storeChar x).tRxto = b.tRxto := rfl
@[simp] theorem Block.storeChar_phase (x : Byte) (b : Block) : (b.storeChar x).phase = b.phase := rfl
@[simp] theorem Block.storeChar_op (x : Byte) (b : Block) : (b.storeChar x).op = b.op := rfl
@[simp] theorem Block.storeChar_tDead (x : Byte) (b : Block) : (b.storeChar x).tDead = b.tDead := rfl
@[simp] theorem Block.storeChar_tOpen (x : Byte) (b : Block) : (b.storeChar x).tOpen = b.tOpen := rfl
@[simp] theorem Block.storeChar_txIdx (x : Byte) (b : Block) : (b.storeChar x).txIdx = b.txIdx := rfl
@[simp] theorem Block.storeChar_rxN (x : Byte) (b : Block) : (b.storeChar x).rxN = b.rxN := rfl

/-! Entering a phase writes phase and t_dead (00_scope.md R7): field by field. -/

@[simp] theorem Block.enter_portEn (p : Phase) (t : Nat) (b : Block) : (b.enter p t).portEn = b.portEn := rfl
@[simp] theorem Block.enter_irqEn (p : Phase) (t : Nat) (b : Block) : (b.enter p t).irqEn = b.irqEn := rfl
@[simp] theorem Block.enter_done (p : Phase) (t : Nat) (b : Block) : (b.enter p t).done = b.done := rfl
@[simp] theorem Block.enter_result (p : Phase) (t : Nat) (b : Block) : (b.enter p t).result = b.result := rfl
@[simp] theorem Block.enter_valid (p : Phase) (t : Nat) (b : Block) : (b.enter p t).valid = b.valid := rfl
@[simp] theorem Block.enter_rxDrop (p : Phase) (t : Nat) (b : Block) : (b.enter p t).rxDrop = b.rxDrop := rfl
@[simp] theorem Block.enter_busyWr (p : Phase) (t : Nat) (b : Block) : (b.enter p t).busyWr = b.busyWr := rfl
@[simp] theorem Block.enter_rxcnt (p : Phase) (t : Nat) (b : Block) : (b.enter p t).rxcnt = b.rxcnt := rfl
@[simp] theorem Block.enter_crc (p : Phase) (t : Nat) (b : Block) : (b.enter p t).crc = b.crc := rfl
@[simp] theorem Block.enter_txf (p : Phase) (t : Nat) (b : Block) : (b.enter p t).txf = b.txf := rfl
@[simp] theorem Block.enter_txbuf (p : Phase) (t : Nat) (b : Block) : (b.enter p t).txbuf = b.txbuf := rfl
@[simp] theorem Block.enter_txlen (p : Phase) (t : Nat) (b : Block) : (b.enter p t).txlen = b.txlen := rfl
@[simp] theorem Block.enter_rxbuf (p : Phase) (t : Nat) (b : Block) : (b.enter p t).rxbuf = b.rxbuf := rfl
@[simp] theorem Block.enter_rxf (p : Phase) (t : Nat) (b : Block) : (b.enter p t).rxf = b.rxf := rfl
@[simp] theorem Block.enter_dlen (p : Phase) (t : Nat) (b : Block) : (b.enter p t).dlen = b.dlen := rfl
@[simp] theorem Block.enter_tSettle (p : Phase) (t : Nat) (b : Block) : (b.enter p t).tSettle = b.tSettle := rfl
@[simp] theorem Block.enter_tDrain (p : Phase) (t : Nat) (b : Block) : (b.enter p t).tDrain = b.tDrain := rfl
@[simp] theorem Block.enter_tRxto (p : Phase) (t : Nat) (b : Block) : (b.enter p t).tRxto = b.tRxto := rfl
@[simp] theorem Block.enter_phase (p : Phase) (t : Nat) (b : Block) : (b.enter p t).phase = p := rfl
@[simp] theorem Block.enter_op (p : Phase) (t : Nat) (b : Block) : (b.enter p t).op = b.op := rfl
@[simp] theorem Block.enter_tDead (p : Phase) (t : Nat) (b : Block) : (b.enter p t).tDead = t := rfl
@[simp] theorem Block.enter_tOpen (p : Phase) (t : Nat) (b : Block) : (b.enter p t).tOpen = b.tOpen := rfl
@[simp] theorem Block.enter_txIdx (p : Phase) (t : Nat) (b : Block) : (b.enter p t).txIdx = b.txIdx := rfl
@[simp] theorem Block.enter_rxN (p : Phase) (t : Nat) (b : Block) : (b.enter p t).rxN = b.rxN := rfl

/-! Setting hidden.op (10_state.md R38): field by field. -/

@[simp] theorem Block.setOp_portEn (o : BusOp) (b : Block) : (b.setOp o).portEn = b.portEn := rfl
@[simp] theorem Block.setOp_irqEn (o : BusOp) (b : Block) : (b.setOp o).irqEn = b.irqEn := rfl
@[simp] theorem Block.setOp_done (o : BusOp) (b : Block) : (b.setOp o).done = b.done := rfl
@[simp] theorem Block.setOp_result (o : BusOp) (b : Block) : (b.setOp o).result = b.result := rfl
@[simp] theorem Block.setOp_valid (o : BusOp) (b : Block) : (b.setOp o).valid = b.valid := rfl
@[simp] theorem Block.setOp_rxDrop (o : BusOp) (b : Block) : (b.setOp o).rxDrop = b.rxDrop := rfl
@[simp] theorem Block.setOp_busyWr (o : BusOp) (b : Block) : (b.setOp o).busyWr = b.busyWr := rfl
@[simp] theorem Block.setOp_rxcnt (o : BusOp) (b : Block) : (b.setOp o).rxcnt = b.rxcnt := rfl
@[simp] theorem Block.setOp_crc (o : BusOp) (b : Block) : (b.setOp o).crc = b.crc := rfl
@[simp] theorem Block.setOp_txf (o : BusOp) (b : Block) : (b.setOp o).txf = b.txf := rfl
@[simp] theorem Block.setOp_txbuf (o : BusOp) (b : Block) : (b.setOp o).txbuf = b.txbuf := rfl
@[simp] theorem Block.setOp_txlen (o : BusOp) (b : Block) : (b.setOp o).txlen = b.txlen := rfl
@[simp] theorem Block.setOp_rxbuf (o : BusOp) (b : Block) : (b.setOp o).rxbuf = b.rxbuf := rfl
@[simp] theorem Block.setOp_rxf (o : BusOp) (b : Block) : (b.setOp o).rxf = b.rxf := rfl
@[simp] theorem Block.setOp_dlen (o : BusOp) (b : Block) : (b.setOp o).dlen = b.dlen := rfl
@[simp] theorem Block.setOp_tSettle (o : BusOp) (b : Block) : (b.setOp o).tSettle = b.tSettle := rfl
@[simp] theorem Block.setOp_tDrain (o : BusOp) (b : Block) : (b.setOp o).tDrain = b.tDrain := rfl
@[simp] theorem Block.setOp_tRxto (o : BusOp) (b : Block) : (b.setOp o).tRxto = b.tRxto := rfl
@[simp] theorem Block.setOp_phase (o : BusOp) (b : Block) : (b.setOp o).phase = b.phase := rfl
@[simp] theorem Block.setOp_op (o : BusOp) (b : Block) : (b.setOp o).op = o := rfl
@[simp] theorem Block.setOp_tDead (o : BusOp) (b : Block) : (b.setOp o).tDead = b.tDead := rfl
@[simp] theorem Block.setOp_tOpen (o : BusOp) (b : Block) : (b.setOp o).tOpen = b.tOpen := rfl
@[simp] theorem Block.setOp_txIdx (o : BusOp) (b : Block) : (b.setOp o).txIdx = b.txIdx := rfl
@[simp] theorem Block.setOp_rxN (o : BusOp) (b : Block) : (b.setOp o).rxN = b.rxN := rfl

/-! Setting hidden.tx_idx (10_state.md R38): field by field. -/

@[simp] theorem Block.setTxIdx_portEn (k : Nat) (b : Block) : (b.setTxIdx k).portEn = b.portEn := rfl
@[simp] theorem Block.setTxIdx_irqEn (k : Nat) (b : Block) : (b.setTxIdx k).irqEn = b.irqEn := rfl
@[simp] theorem Block.setTxIdx_done (k : Nat) (b : Block) : (b.setTxIdx k).done = b.done := rfl
@[simp] theorem Block.setTxIdx_result (k : Nat) (b : Block) : (b.setTxIdx k).result = b.result := rfl
@[simp] theorem Block.setTxIdx_valid (k : Nat) (b : Block) : (b.setTxIdx k).valid = b.valid := rfl
@[simp] theorem Block.setTxIdx_rxDrop (k : Nat) (b : Block) : (b.setTxIdx k).rxDrop = b.rxDrop := rfl
@[simp] theorem Block.setTxIdx_busyWr (k : Nat) (b : Block) : (b.setTxIdx k).busyWr = b.busyWr := rfl
@[simp] theorem Block.setTxIdx_rxcnt (k : Nat) (b : Block) : (b.setTxIdx k).rxcnt = b.rxcnt := rfl
@[simp] theorem Block.setTxIdx_crc (k : Nat) (b : Block) : (b.setTxIdx k).crc = b.crc := rfl
@[simp] theorem Block.setTxIdx_txf (k : Nat) (b : Block) : (b.setTxIdx k).txf = b.txf := rfl
@[simp] theorem Block.setTxIdx_txbuf (k : Nat) (b : Block) : (b.setTxIdx k).txbuf = b.txbuf := rfl
@[simp] theorem Block.setTxIdx_txlen (k : Nat) (b : Block) : (b.setTxIdx k).txlen = b.txlen := rfl
@[simp] theorem Block.setTxIdx_rxbuf (k : Nat) (b : Block) : (b.setTxIdx k).rxbuf = b.rxbuf := rfl
@[simp] theorem Block.setTxIdx_rxf (k : Nat) (b : Block) : (b.setTxIdx k).rxf = b.rxf := rfl
@[simp] theorem Block.setTxIdx_dlen (k : Nat) (b : Block) : (b.setTxIdx k).dlen = b.dlen := rfl
@[simp] theorem Block.setTxIdx_tSettle (k : Nat) (b : Block) : (b.setTxIdx k).tSettle = b.tSettle := rfl
@[simp] theorem Block.setTxIdx_tDrain (k : Nat) (b : Block) : (b.setTxIdx k).tDrain = b.tDrain := rfl
@[simp] theorem Block.setTxIdx_tRxto (k : Nat) (b : Block) : (b.setTxIdx k).tRxto = b.tRxto := rfl
@[simp] theorem Block.setTxIdx_phase (k : Nat) (b : Block) : (b.setTxIdx k).phase = b.phase := rfl
@[simp] theorem Block.setTxIdx_op (k : Nat) (b : Block) : (b.setTxIdx k).op = b.op := rfl
@[simp] theorem Block.setTxIdx_tDead (k : Nat) (b : Block) : (b.setTxIdx k).tDead = b.tDead := rfl
@[simp] theorem Block.setTxIdx_tOpen (k : Nat) (b : Block) : (b.setTxIdx k).tOpen = b.tOpen := rfl
@[simp] theorem Block.setTxIdx_txIdx (k : Nat) (b : Block) : (b.setTxIdx k).txIdx = k := rfl
@[simp] theorem Block.setTxIdx_rxN (k : Nat) (b : Block) : (b.setTxIdx k).rxN = b.rxN := rfl

/-! Opening a window clears RXBUF and RXCNT (42_transport.md R178): field by field. -/

@[simp] theorem Block.openWindow_portEn (n t : Nat) (b : Block) : (b.openWindow n t).portEn = b.portEn := rfl
@[simp] theorem Block.openWindow_irqEn (n t : Nat) (b : Block) : (b.openWindow n t).irqEn = b.irqEn := rfl
@[simp] theorem Block.openWindow_done (n t : Nat) (b : Block) : (b.openWindow n t).done = b.done := rfl
@[simp] theorem Block.openWindow_result (n t : Nat) (b : Block) : (b.openWindow n t).result = b.result := rfl
@[simp] theorem Block.openWindow_valid (n t : Nat) (b : Block) : (b.openWindow n t).valid = b.valid := rfl
@[simp] theorem Block.openWindow_rxDrop (n t : Nat) (b : Block) : (b.openWindow n t).rxDrop = b.rxDrop := rfl
@[simp] theorem Block.openWindow_busyWr (n t : Nat) (b : Block) : (b.openWindow n t).busyWr = b.busyWr := rfl
@[simp] theorem Block.openWindow_rxcnt (n t : Nat) (b : Block) : (b.openWindow n t).rxcnt = 0 := rfl
@[simp] theorem Block.openWindow_crc (n t : Nat) (b : Block) : (b.openWindow n t).crc = b.crc := rfl
@[simp] theorem Block.openWindow_txf (n t : Nat) (b : Block) : (b.openWindow n t).txf = b.txf := rfl
@[simp] theorem Block.openWindow_txbuf (n t : Nat) (b : Block) : (b.openWindow n t).txbuf = b.txbuf := rfl
@[simp] theorem Block.openWindow_txlen (n t : Nat) (b : Block) : (b.openWindow n t).txlen = b.txlen := rfl
@[simp] theorem Block.openWindow_rxbuf (n t : Nat) (b : Block) : (b.openWindow n t).rxbuf = bufZero := rfl
@[simp] theorem Block.openWindow_rxf (n t : Nat) (b : Block) : (b.openWindow n t).rxf = b.rxf := rfl
@[simp] theorem Block.openWindow_dlen (n t : Nat) (b : Block) : (b.openWindow n t).dlen = b.dlen := rfl
@[simp] theorem Block.openWindow_tSettle (n t : Nat) (b : Block) : (b.openWindow n t).tSettle = b.tSettle := rfl
@[simp] theorem Block.openWindow_tDrain (n t : Nat) (b : Block) : (b.openWindow n t).tDrain = b.tDrain := rfl
@[simp] theorem Block.openWindow_tRxto (n t : Nat) (b : Block) : (b.openWindow n t).tRxto = b.tRxto := rfl
@[simp] theorem Block.openWindow_phase (n t : Nat) (b : Block) : (b.openWindow n t).phase = b.phase := rfl
@[simp] theorem Block.openWindow_op (n t : Nat) (b : Block) : (b.openWindow n t).op = b.op := rfl
@[simp] theorem Block.openWindow_tDead (n t : Nat) (b : Block) : (b.openWindow n t).tDead = b.tDead := rfl
@[simp] theorem Block.openWindow_tOpen (n t : Nat) (b : Block) : (b.openWindow n t).tOpen = t := rfl
@[simp] theorem Block.openWindow_txIdx (n t : Nat) (b : Block) : (b.openWindow n t).txIdx = b.txIdx := rfl
@[simp] theorem Block.openWindow_rxN (n t : Nat) (b : Block) : (b.openWindow n t).rxN = n := rfl

/-! Writing CRC (10_state.md R25): field by field. -/

@[simp] theorem Block.setCrc_portEn (c : Half) (b : Block) : (b.setCrc c).portEn = b.portEn := rfl
@[simp] theorem Block.setCrc_irqEn (c : Half) (b : Block) : (b.setCrc c).irqEn = b.irqEn := rfl
@[simp] theorem Block.setCrc_done (c : Half) (b : Block) : (b.setCrc c).done = b.done := rfl
@[simp] theorem Block.setCrc_result (c : Half) (b : Block) : (b.setCrc c).result = b.result := rfl
@[simp] theorem Block.setCrc_valid (c : Half) (b : Block) : (b.setCrc c).valid = b.valid := rfl
@[simp] theorem Block.setCrc_rxDrop (c : Half) (b : Block) : (b.setCrc c).rxDrop = b.rxDrop := rfl
@[simp] theorem Block.setCrc_busyWr (c : Half) (b : Block) : (b.setCrc c).busyWr = b.busyWr := rfl
@[simp] theorem Block.setCrc_rxcnt (c : Half) (b : Block) : (b.setCrc c).rxcnt = b.rxcnt := rfl
@[simp] theorem Block.setCrc_crc (c : Half) (b : Block) : (b.setCrc c).crc = c := rfl
@[simp] theorem Block.setCrc_txf (c : Half) (b : Block) : (b.setCrc c).txf = b.txf := rfl
@[simp] theorem Block.setCrc_txbuf (c : Half) (b : Block) : (b.setCrc c).txbuf = b.txbuf := rfl
@[simp] theorem Block.setCrc_txlen (c : Half) (b : Block) : (b.setCrc c).txlen = b.txlen := rfl
@[simp] theorem Block.setCrc_rxbuf (c : Half) (b : Block) : (b.setCrc c).rxbuf = b.rxbuf := rfl
@[simp] theorem Block.setCrc_rxf (c : Half) (b : Block) : (b.setCrc c).rxf = b.rxf := rfl
@[simp] theorem Block.setCrc_dlen (c : Half) (b : Block) : (b.setCrc c).dlen = b.dlen := rfl
@[simp] theorem Block.setCrc_tSettle (c : Half) (b : Block) : (b.setCrc c).tSettle = b.tSettle := rfl
@[simp] theorem Block.setCrc_tDrain (c : Half) (b : Block) : (b.setCrc c).tDrain = b.tDrain := rfl
@[simp] theorem Block.setCrc_tRxto (c : Half) (b : Block) : (b.setCrc c).tRxto = b.tRxto := rfl
@[simp] theorem Block.setCrc_phase (c : Half) (b : Block) : (b.setCrc c).phase = b.phase := rfl
@[simp] theorem Block.setCrc_op (c : Half) (b : Block) : (b.setCrc c).op = b.op := rfl
@[simp] theorem Block.setCrc_tDead (c : Half) (b : Block) : (b.setCrc c).tDead = b.tDead := rfl
@[simp] theorem Block.setCrc_tOpen (c : Half) (b : Block) : (b.setCrc c).tOpen = b.tOpen := rfl
@[simp] theorem Block.setCrc_txIdx (c : Half) (b : Block) : (b.setCrc c).txIdx = b.txIdx := rfl
@[simp] theorem Block.setCrc_rxN (c : Half) (b : Block) : (b.setCrc c).rxN = b.rxN := rfl

/-! Writing VALID (10_state.md R22): field by field. -/

@[simp] theorem Block.setValid_portEn (v : Bool) (b : Block) : (b.setValid v).portEn = b.portEn := rfl
@[simp] theorem Block.setValid_irqEn (v : Bool) (b : Block) : (b.setValid v).irqEn = b.irqEn := rfl
@[simp] theorem Block.setValid_done (v : Bool) (b : Block) : (b.setValid v).done = b.done := rfl
@[simp] theorem Block.setValid_result (v : Bool) (b : Block) : (b.setValid v).result = b.result := rfl
@[simp] theorem Block.setValid_valid (v : Bool) (b : Block) : (b.setValid v).valid = v := rfl
@[simp] theorem Block.setValid_rxDrop (v : Bool) (b : Block) : (b.setValid v).rxDrop = b.rxDrop := rfl
@[simp] theorem Block.setValid_busyWr (v : Bool) (b : Block) : (b.setValid v).busyWr = b.busyWr := rfl
@[simp] theorem Block.setValid_rxcnt (v : Bool) (b : Block) : (b.setValid v).rxcnt = b.rxcnt := rfl
@[simp] theorem Block.setValid_crc (v : Bool) (b : Block) : (b.setValid v).crc = b.crc := rfl
@[simp] theorem Block.setValid_txf (v : Bool) (b : Block) : (b.setValid v).txf = b.txf := rfl
@[simp] theorem Block.setValid_txbuf (v : Bool) (b : Block) : (b.setValid v).txbuf = b.txbuf := rfl
@[simp] theorem Block.setValid_txlen (v : Bool) (b : Block) : (b.setValid v).txlen = b.txlen := rfl
@[simp] theorem Block.setValid_rxbuf (v : Bool) (b : Block) : (b.setValid v).rxbuf = b.rxbuf := rfl
@[simp] theorem Block.setValid_rxf (v : Bool) (b : Block) : (b.setValid v).rxf = b.rxf := rfl
@[simp] theorem Block.setValid_dlen (v : Bool) (b : Block) : (b.setValid v).dlen = b.dlen := rfl
@[simp] theorem Block.setValid_tSettle (v : Bool) (b : Block) : (b.setValid v).tSettle = b.tSettle := rfl
@[simp] theorem Block.setValid_tDrain (v : Bool) (b : Block) : (b.setValid v).tDrain = b.tDrain := rfl
@[simp] theorem Block.setValid_tRxto (v : Bool) (b : Block) : (b.setValid v).tRxto = b.tRxto := rfl
@[simp] theorem Block.setValid_phase (v : Bool) (b : Block) : (b.setValid v).phase = b.phase := rfl
@[simp] theorem Block.setValid_op (v : Bool) (b : Block) : (b.setValid v).op = b.op := rfl
@[simp] theorem Block.setValid_tDead (v : Bool) (b : Block) : (b.setValid v).tDead = b.tDead := rfl
@[simp] theorem Block.setValid_tOpen (v : Bool) (b : Block) : (b.setValid v).tOpen = b.tOpen := rfl
@[simp] theorem Block.setValid_txIdx (v : Bool) (b : Block) : (b.setValid v).txIdx = b.txIdx := rfl
@[simp] theorem Block.setValid_rxN (v : Bool) (b : Block) : (b.setValid v).rxN = b.rxN := rfl

/-! A write to TXF0 (20_memory.md R64): field by field. -/

@[simp] theorem Block.writeTxf0_portEn (v : Word) (b : Block) : (b.writeTxf0 v).portEn = b.portEn := rfl
@[simp] theorem Block.writeTxf0_irqEn (v : Word) (b : Block) : (b.writeTxf0 v).irqEn = b.irqEn := rfl
@[simp] theorem Block.writeTxf0_done (v : Word) (b : Block) : (b.writeTxf0 v).done = b.done := rfl
@[simp] theorem Block.writeTxf0_result (v : Word) (b : Block) : (b.writeTxf0 v).result = b.result := rfl
@[simp] theorem Block.writeTxf0_valid (v : Word) (b : Block) : (b.writeTxf0 v).valid = b.valid := rfl
@[simp] theorem Block.writeTxf0_rxDrop (v : Word) (b : Block) : (b.writeTxf0 v).rxDrop = b.rxDrop := rfl
@[simp] theorem Block.writeTxf0_busyWr (v : Word) (b : Block) : (b.writeTxf0 v).busyWr = b.busyWr := rfl
@[simp] theorem Block.writeTxf0_rxcnt (v : Word) (b : Block) : (b.writeTxf0 v).rxcnt = b.rxcnt := rfl
@[simp] theorem Block.writeTxf0_crc (v : Word) (b : Block) : (b.writeTxf0 v).crc = b.crc := rfl
@[simp] theorem Block.writeTxf0_txf (v : Word) (b : Block) :
    (b.writeTxf0 v).txf = { b.txf with addr := lane v 0, cmd := lane v 1, d0 := lane v 2, d1 := lane v 3 } := rfl
@[simp] theorem Block.writeTxf0_txbuf (v : Word) (b : Block) : (b.writeTxf0 v).txbuf = b.txbuf := rfl
@[simp] theorem Block.writeTxf0_txlen (v : Word) (b : Block) : (b.writeTxf0 v).txlen = b.txlen := rfl
@[simp] theorem Block.writeTxf0_rxbuf (v : Word) (b : Block) : (b.writeTxf0 v).rxbuf = b.rxbuf := rfl
@[simp] theorem Block.writeTxf0_rxf (v : Word) (b : Block) : (b.writeTxf0 v).rxf = b.rxf := rfl
@[simp] theorem Block.writeTxf0_dlen (v : Word) (b : Block) : (b.writeTxf0 v).dlen = b.dlen := rfl
@[simp] theorem Block.writeTxf0_tSettle (v : Word) (b : Block) : (b.writeTxf0 v).tSettle = b.tSettle := rfl
@[simp] theorem Block.writeTxf0_tDrain (v : Word) (b : Block) : (b.writeTxf0 v).tDrain = b.tDrain := rfl
@[simp] theorem Block.writeTxf0_tRxto (v : Word) (b : Block) : (b.writeTxf0 v).tRxto = b.tRxto := rfl
@[simp] theorem Block.writeTxf0_phase (v : Word) (b : Block) : (b.writeTxf0 v).phase = b.phase := rfl
@[simp] theorem Block.writeTxf0_op (v : Word) (b : Block) : (b.writeTxf0 v).op = b.op := rfl
@[simp] theorem Block.writeTxf0_tDead (v : Word) (b : Block) : (b.writeTxf0 v).tDead = b.tDead := rfl
@[simp] theorem Block.writeTxf0_tOpen (v : Word) (b : Block) : (b.writeTxf0 v).tOpen = b.tOpen := rfl
@[simp] theorem Block.writeTxf0_txIdx (v : Word) (b : Block) : (b.writeTxf0 v).txIdx = b.txIdx := rfl
@[simp] theorem Block.writeTxf0_rxN (v : Word) (b : Block) : (b.writeTxf0 v).rxN = b.rxN := rfl

/-! A write to TXF1 (20_memory.md R64): field by field. -/

@[simp] theorem Block.writeTxf1_portEn (v : Word) (b : Block) : (b.writeTxf1 v).portEn = b.portEn := rfl
@[simp] theorem Block.writeTxf1_irqEn (v : Word) (b : Block) : (b.writeTxf1 v).irqEn = b.irqEn := rfl
@[simp] theorem Block.writeTxf1_done (v : Word) (b : Block) : (b.writeTxf1 v).done = b.done := rfl
@[simp] theorem Block.writeTxf1_result (v : Word) (b : Block) : (b.writeTxf1 v).result = b.result := rfl
@[simp] theorem Block.writeTxf1_valid (v : Word) (b : Block) : (b.writeTxf1 v).valid = b.valid := rfl
@[simp] theorem Block.writeTxf1_rxDrop (v : Word) (b : Block) : (b.writeTxf1 v).rxDrop = b.rxDrop := rfl
@[simp] theorem Block.writeTxf1_busyWr (v : Word) (b : Block) : (b.writeTxf1 v).busyWr = b.busyWr := rfl
@[simp] theorem Block.writeTxf1_rxcnt (v : Word) (b : Block) : (b.writeTxf1 v).rxcnt = b.rxcnt := rfl
@[simp] theorem Block.writeTxf1_crc (v : Word) (b : Block) : (b.writeTxf1 v).crc = b.crc := rfl
@[simp] theorem Block.writeTxf1_txf (v : Word) (b : Block) :
    (b.writeTxf1 v).txf = { b.txf with d2 := lane v 0, d3 := lane v 1 } := rfl
@[simp] theorem Block.writeTxf1_txbuf (v : Word) (b : Block) : (b.writeTxf1 v).txbuf = b.txbuf := rfl
@[simp] theorem Block.writeTxf1_txlen (v : Word) (b : Block) : (b.writeTxf1 v).txlen = b.txlen := rfl
@[simp] theorem Block.writeTxf1_rxbuf (v : Word) (b : Block) : (b.writeTxf1 v).rxbuf = b.rxbuf := rfl
@[simp] theorem Block.writeTxf1_rxf (v : Word) (b : Block) : (b.writeTxf1 v).rxf = b.rxf := rfl
@[simp] theorem Block.writeTxf1_dlen (v : Word) (b : Block) : (b.writeTxf1 v).dlen = b.dlen := rfl
@[simp] theorem Block.writeTxf1_tSettle (v : Word) (b : Block) : (b.writeTxf1 v).tSettle = b.tSettle := rfl
@[simp] theorem Block.writeTxf1_tDrain (v : Word) (b : Block) : (b.writeTxf1 v).tDrain = b.tDrain := rfl
@[simp] theorem Block.writeTxf1_tRxto (v : Word) (b : Block) : (b.writeTxf1 v).tRxto = b.tRxto := rfl
@[simp] theorem Block.writeTxf1_phase (v : Word) (b : Block) : (b.writeTxf1 v).phase = b.phase := rfl
@[simp] theorem Block.writeTxf1_op (v : Word) (b : Block) : (b.writeTxf1 v).op = b.op := rfl
@[simp] theorem Block.writeTxf1_tDead (v : Word) (b : Block) : (b.writeTxf1 v).tDead = b.tDead := rfl
@[simp] theorem Block.writeTxf1_tOpen (v : Word) (b : Block) : (b.writeTxf1 v).tOpen = b.tOpen := rfl
@[simp] theorem Block.writeTxf1_txIdx (v : Word) (b : Block) : (b.writeTxf1 v).txIdx = b.txIdx := rfl
@[simp] theorem Block.writeTxf1_rxN (v : Word) (b : Block) : (b.writeTxf1 v).rxN = b.rxN := rfl

/-! A write of TXBUF (20_memory.md R64): field by field. -/

@[simp] theorem Block.setTxbuf_portEn (x : Buf) (b : Block) : (b.setTxbuf x).portEn = b.portEn := rfl
@[simp] theorem Block.setTxbuf_irqEn (x : Buf) (b : Block) : (b.setTxbuf x).irqEn = b.irqEn := rfl
@[simp] theorem Block.setTxbuf_done (x : Buf) (b : Block) : (b.setTxbuf x).done = b.done := rfl
@[simp] theorem Block.setTxbuf_result (x : Buf) (b : Block) : (b.setTxbuf x).result = b.result := rfl
@[simp] theorem Block.setTxbuf_valid (x : Buf) (b : Block) : (b.setTxbuf x).valid = b.valid := rfl
@[simp] theorem Block.setTxbuf_rxDrop (x : Buf) (b : Block) : (b.setTxbuf x).rxDrop = b.rxDrop := rfl
@[simp] theorem Block.setTxbuf_busyWr (x : Buf) (b : Block) : (b.setTxbuf x).busyWr = b.busyWr := rfl
@[simp] theorem Block.setTxbuf_rxcnt (x : Buf) (b : Block) : (b.setTxbuf x).rxcnt = b.rxcnt := rfl
@[simp] theorem Block.setTxbuf_crc (x : Buf) (b : Block) : (b.setTxbuf x).crc = b.crc := rfl
@[simp] theorem Block.setTxbuf_txf (x : Buf) (b : Block) : (b.setTxbuf x).txf = b.txf := rfl
@[simp] theorem Block.setTxbuf_txbuf (x : Buf) (b : Block) : (b.setTxbuf x).txbuf = x := rfl
@[simp] theorem Block.setTxbuf_txlen (x : Buf) (b : Block) : (b.setTxbuf x).txlen = b.txlen := rfl
@[simp] theorem Block.setTxbuf_rxbuf (x : Buf) (b : Block) : (b.setTxbuf x).rxbuf = b.rxbuf := rfl
@[simp] theorem Block.setTxbuf_rxf (x : Buf) (b : Block) : (b.setTxbuf x).rxf = b.rxf := rfl
@[simp] theorem Block.setTxbuf_dlen (x : Buf) (b : Block) : (b.setTxbuf x).dlen = b.dlen := rfl
@[simp] theorem Block.setTxbuf_tSettle (x : Buf) (b : Block) : (b.setTxbuf x).tSettle = b.tSettle := rfl
@[simp] theorem Block.setTxbuf_tDrain (x : Buf) (b : Block) : (b.setTxbuf x).tDrain = b.tDrain := rfl
@[simp] theorem Block.setTxbuf_tRxto (x : Buf) (b : Block) : (b.setTxbuf x).tRxto = b.tRxto := rfl
@[simp] theorem Block.setTxbuf_phase (x : Buf) (b : Block) : (b.setTxbuf x).phase = b.phase := rfl
@[simp] theorem Block.setTxbuf_op (x : Buf) (b : Block) : (b.setTxbuf x).op = b.op := rfl
@[simp] theorem Block.setTxbuf_tDead (x : Buf) (b : Block) : (b.setTxbuf x).tDead = b.tDead := rfl
@[simp] theorem Block.setTxbuf_tOpen (x : Buf) (b : Block) : (b.setTxbuf x).tOpen = b.tOpen := rfl
@[simp] theorem Block.setTxbuf_txIdx (x : Buf) (b : Block) : (b.setTxbuf x).txIdx = b.txIdx := rfl
@[simp] theorem Block.setTxbuf_rxN (x : Buf) (b : Block) : (b.setTxbuf x).rxN = b.rxN := rfl

/-! A write to TXLEN (20_memory.md R64): field by field. -/

@[simp] theorem Block.setTxlen_portEn (n : BitVec 4) (b : Block) : (b.setTxlen n).portEn = b.portEn := rfl
@[simp] theorem Block.setTxlen_irqEn (n : BitVec 4) (b : Block) : (b.setTxlen n).irqEn = b.irqEn := rfl
@[simp] theorem Block.setTxlen_done (n : BitVec 4) (b : Block) : (b.setTxlen n).done = b.done := rfl
@[simp] theorem Block.setTxlen_result (n : BitVec 4) (b : Block) : (b.setTxlen n).result = b.result := rfl
@[simp] theorem Block.setTxlen_valid (n : BitVec 4) (b : Block) : (b.setTxlen n).valid = b.valid := rfl
@[simp] theorem Block.setTxlen_rxDrop (n : BitVec 4) (b : Block) : (b.setTxlen n).rxDrop = b.rxDrop := rfl
@[simp] theorem Block.setTxlen_busyWr (n : BitVec 4) (b : Block) : (b.setTxlen n).busyWr = b.busyWr := rfl
@[simp] theorem Block.setTxlen_rxcnt (n : BitVec 4) (b : Block) : (b.setTxlen n).rxcnt = b.rxcnt := rfl
@[simp] theorem Block.setTxlen_crc (n : BitVec 4) (b : Block) : (b.setTxlen n).crc = b.crc := rfl
@[simp] theorem Block.setTxlen_txf (n : BitVec 4) (b : Block) : (b.setTxlen n).txf = b.txf := rfl
@[simp] theorem Block.setTxlen_txbuf (n : BitVec 4) (b : Block) : (b.setTxlen n).txbuf = b.txbuf := rfl
@[simp] theorem Block.setTxlen_txlen (n : BitVec 4) (b : Block) : (b.setTxlen n).txlen = n := rfl
@[simp] theorem Block.setTxlen_rxbuf (n : BitVec 4) (b : Block) : (b.setTxlen n).rxbuf = b.rxbuf := rfl
@[simp] theorem Block.setTxlen_rxf (n : BitVec 4) (b : Block) : (b.setTxlen n).rxf = b.rxf := rfl
@[simp] theorem Block.setTxlen_dlen (n : BitVec 4) (b : Block) : (b.setTxlen n).dlen = b.dlen := rfl
@[simp] theorem Block.setTxlen_tSettle (n : BitVec 4) (b : Block) : (b.setTxlen n).tSettle = b.tSettle := rfl
@[simp] theorem Block.setTxlen_tDrain (n : BitVec 4) (b : Block) : (b.setTxlen n).tDrain = b.tDrain := rfl
@[simp] theorem Block.setTxlen_tRxto (n : BitVec 4) (b : Block) : (b.setTxlen n).tRxto = b.tRxto := rfl
@[simp] theorem Block.setTxlen_phase (n : BitVec 4) (b : Block) : (b.setTxlen n).phase = b.phase := rfl
@[simp] theorem Block.setTxlen_op (n : BitVec 4) (b : Block) : (b.setTxlen n).op = b.op := rfl
@[simp] theorem Block.setTxlen_tDead (n : BitVec 4) (b : Block) : (b.setTxlen n).tDead = b.tDead := rfl
@[simp] theorem Block.setTxlen_tOpen (n : BitVec 4) (b : Block) : (b.setTxlen n).tOpen = b.tOpen := rfl
@[simp] theorem Block.setTxlen_txIdx (n : BitVec 4) (b : Block) : (b.setTxlen n).txIdx = b.txIdx := rfl
@[simp] theorem Block.setTxlen_rxN (n : BitVec 4) (b : Block) : (b.setTxlen n).rxN = b.rxN := rfl

/-! A write to T_SETTLE (20_memory.md R64): field by field. -/

@[simp] theorem Block.setSettle_portEn (t : BitVec 24) (b : Block) : (b.setSettle t).portEn = b.portEn := rfl
@[simp] theorem Block.setSettle_irqEn (t : BitVec 24) (b : Block) : (b.setSettle t).irqEn = b.irqEn := rfl
@[simp] theorem Block.setSettle_done (t : BitVec 24) (b : Block) : (b.setSettle t).done = b.done := rfl
@[simp] theorem Block.setSettle_result (t : BitVec 24) (b : Block) : (b.setSettle t).result = b.result := rfl
@[simp] theorem Block.setSettle_valid (t : BitVec 24) (b : Block) : (b.setSettle t).valid = b.valid := rfl
@[simp] theorem Block.setSettle_rxDrop (t : BitVec 24) (b : Block) : (b.setSettle t).rxDrop = b.rxDrop := rfl
@[simp] theorem Block.setSettle_busyWr (t : BitVec 24) (b : Block) : (b.setSettle t).busyWr = b.busyWr := rfl
@[simp] theorem Block.setSettle_rxcnt (t : BitVec 24) (b : Block) : (b.setSettle t).rxcnt = b.rxcnt := rfl
@[simp] theorem Block.setSettle_crc (t : BitVec 24) (b : Block) : (b.setSettle t).crc = b.crc := rfl
@[simp] theorem Block.setSettle_txf (t : BitVec 24) (b : Block) : (b.setSettle t).txf = b.txf := rfl
@[simp] theorem Block.setSettle_txbuf (t : BitVec 24) (b : Block) : (b.setSettle t).txbuf = b.txbuf := rfl
@[simp] theorem Block.setSettle_txlen (t : BitVec 24) (b : Block) : (b.setSettle t).txlen = b.txlen := rfl
@[simp] theorem Block.setSettle_rxbuf (t : BitVec 24) (b : Block) : (b.setSettle t).rxbuf = b.rxbuf := rfl
@[simp] theorem Block.setSettle_rxf (t : BitVec 24) (b : Block) : (b.setSettle t).rxf = b.rxf := rfl
@[simp] theorem Block.setSettle_dlen (t : BitVec 24) (b : Block) : (b.setSettle t).dlen = b.dlen := rfl
@[simp] theorem Block.setSettle_tSettle (t : BitVec 24) (b : Block) : (b.setSettle t).tSettle = t := rfl
@[simp] theorem Block.setSettle_tDrain (t : BitVec 24) (b : Block) : (b.setSettle t).tDrain = b.tDrain := rfl
@[simp] theorem Block.setSettle_tRxto (t : BitVec 24) (b : Block) : (b.setSettle t).tRxto = b.tRxto := rfl
@[simp] theorem Block.setSettle_phase (t : BitVec 24) (b : Block) : (b.setSettle t).phase = b.phase := rfl
@[simp] theorem Block.setSettle_op (t : BitVec 24) (b : Block) : (b.setSettle t).op = b.op := rfl
@[simp] theorem Block.setSettle_tDead (t : BitVec 24) (b : Block) : (b.setSettle t).tDead = b.tDead := rfl
@[simp] theorem Block.setSettle_tOpen (t : BitVec 24) (b : Block) : (b.setSettle t).tOpen = b.tOpen := rfl
@[simp] theorem Block.setSettle_txIdx (t : BitVec 24) (b : Block) : (b.setSettle t).txIdx = b.txIdx := rfl
@[simp] theorem Block.setSettle_rxN (t : BitVec 24) (b : Block) : (b.setSettle t).rxN = b.rxN := rfl

/-! A write to T_DRAIN (20_memory.md R64): field by field. -/

@[simp] theorem Block.setDrain_portEn (t : BitVec 24) (b : Block) : (b.setDrain t).portEn = b.portEn := rfl
@[simp] theorem Block.setDrain_irqEn (t : BitVec 24) (b : Block) : (b.setDrain t).irqEn = b.irqEn := rfl
@[simp] theorem Block.setDrain_done (t : BitVec 24) (b : Block) : (b.setDrain t).done = b.done := rfl
@[simp] theorem Block.setDrain_result (t : BitVec 24) (b : Block) : (b.setDrain t).result = b.result := rfl
@[simp] theorem Block.setDrain_valid (t : BitVec 24) (b : Block) : (b.setDrain t).valid = b.valid := rfl
@[simp] theorem Block.setDrain_rxDrop (t : BitVec 24) (b : Block) : (b.setDrain t).rxDrop = b.rxDrop := rfl
@[simp] theorem Block.setDrain_busyWr (t : BitVec 24) (b : Block) : (b.setDrain t).busyWr = b.busyWr := rfl
@[simp] theorem Block.setDrain_rxcnt (t : BitVec 24) (b : Block) : (b.setDrain t).rxcnt = b.rxcnt := rfl
@[simp] theorem Block.setDrain_crc (t : BitVec 24) (b : Block) : (b.setDrain t).crc = b.crc := rfl
@[simp] theorem Block.setDrain_txf (t : BitVec 24) (b : Block) : (b.setDrain t).txf = b.txf := rfl
@[simp] theorem Block.setDrain_txbuf (t : BitVec 24) (b : Block) : (b.setDrain t).txbuf = b.txbuf := rfl
@[simp] theorem Block.setDrain_txlen (t : BitVec 24) (b : Block) : (b.setDrain t).txlen = b.txlen := rfl
@[simp] theorem Block.setDrain_rxbuf (t : BitVec 24) (b : Block) : (b.setDrain t).rxbuf = b.rxbuf := rfl
@[simp] theorem Block.setDrain_rxf (t : BitVec 24) (b : Block) : (b.setDrain t).rxf = b.rxf := rfl
@[simp] theorem Block.setDrain_dlen (t : BitVec 24) (b : Block) : (b.setDrain t).dlen = b.dlen := rfl
@[simp] theorem Block.setDrain_tSettle (t : BitVec 24) (b : Block) : (b.setDrain t).tSettle = b.tSettle := rfl
@[simp] theorem Block.setDrain_tDrain (t : BitVec 24) (b : Block) : (b.setDrain t).tDrain = t := rfl
@[simp] theorem Block.setDrain_tRxto (t : BitVec 24) (b : Block) : (b.setDrain t).tRxto = b.tRxto := rfl
@[simp] theorem Block.setDrain_phase (t : BitVec 24) (b : Block) : (b.setDrain t).phase = b.phase := rfl
@[simp] theorem Block.setDrain_op (t : BitVec 24) (b : Block) : (b.setDrain t).op = b.op := rfl
@[simp] theorem Block.setDrain_tDead (t : BitVec 24) (b : Block) : (b.setDrain t).tDead = b.tDead := rfl
@[simp] theorem Block.setDrain_tOpen (t : BitVec 24) (b : Block) : (b.setDrain t).tOpen = b.tOpen := rfl
@[simp] theorem Block.setDrain_txIdx (t : BitVec 24) (b : Block) : (b.setDrain t).txIdx = b.txIdx := rfl
@[simp] theorem Block.setDrain_rxN (t : BitVec 24) (b : Block) : (b.setDrain t).rxN = b.rxN := rfl

/-! A write to T_RXTO (20_memory.md R64): field by field. -/

@[simp] theorem Block.setRxto_portEn (t : BitVec 24) (b : Block) : (b.setRxto t).portEn = b.portEn := rfl
@[simp] theorem Block.setRxto_irqEn (t : BitVec 24) (b : Block) : (b.setRxto t).irqEn = b.irqEn := rfl
@[simp] theorem Block.setRxto_done (t : BitVec 24) (b : Block) : (b.setRxto t).done = b.done := rfl
@[simp] theorem Block.setRxto_result (t : BitVec 24) (b : Block) : (b.setRxto t).result = b.result := rfl
@[simp] theorem Block.setRxto_valid (t : BitVec 24) (b : Block) : (b.setRxto t).valid = b.valid := rfl
@[simp] theorem Block.setRxto_rxDrop (t : BitVec 24) (b : Block) : (b.setRxto t).rxDrop = b.rxDrop := rfl
@[simp] theorem Block.setRxto_busyWr (t : BitVec 24) (b : Block) : (b.setRxto t).busyWr = b.busyWr := rfl
@[simp] theorem Block.setRxto_rxcnt (t : BitVec 24) (b : Block) : (b.setRxto t).rxcnt = b.rxcnt := rfl
@[simp] theorem Block.setRxto_crc (t : BitVec 24) (b : Block) : (b.setRxto t).crc = b.crc := rfl
@[simp] theorem Block.setRxto_txf (t : BitVec 24) (b : Block) : (b.setRxto t).txf = b.txf := rfl
@[simp] theorem Block.setRxto_txbuf (t : BitVec 24) (b : Block) : (b.setRxto t).txbuf = b.txbuf := rfl
@[simp] theorem Block.setRxto_txlen (t : BitVec 24) (b : Block) : (b.setRxto t).txlen = b.txlen := rfl
@[simp] theorem Block.setRxto_rxbuf (t : BitVec 24) (b : Block) : (b.setRxto t).rxbuf = b.rxbuf := rfl
@[simp] theorem Block.setRxto_rxf (t : BitVec 24) (b : Block) : (b.setRxto t).rxf = b.rxf := rfl
@[simp] theorem Block.setRxto_dlen (t : BitVec 24) (b : Block) : (b.setRxto t).dlen = b.dlen := rfl
@[simp] theorem Block.setRxto_tSettle (t : BitVec 24) (b : Block) : (b.setRxto t).tSettle = b.tSettle := rfl
@[simp] theorem Block.setRxto_tDrain (t : BitVec 24) (b : Block) : (b.setRxto t).tDrain = b.tDrain := rfl
@[simp] theorem Block.setRxto_tRxto (t : BitVec 24) (b : Block) : (b.setRxto t).tRxto = t := rfl
@[simp] theorem Block.setRxto_phase (t : BitVec 24) (b : Block) : (b.setRxto t).phase = b.phase := rfl
@[simp] theorem Block.setRxto_op (t : BitVec 24) (b : Block) : (b.setRxto t).op = b.op := rfl
@[simp] theorem Block.setRxto_tDead (t : BitVec 24) (b : Block) : (b.setRxto t).tDead = b.tDead := rfl
@[simp] theorem Block.setRxto_tOpen (t : BitVec 24) (b : Block) : (b.setRxto t).tOpen = b.tOpen := rfl
@[simp] theorem Block.setRxto_txIdx (t : BitVec 24) (b : Block) : (b.setRxto t).txIdx = b.txIdx := rfl
@[simp] theorem Block.setRxto_rxN (t : BitVec 24) (b : Block) : (b.setRxto t).rxN = b.rxN := rfl

/-! A change of the block: field by field. -/

@[simp] theorem State.mapBlock_params (f : Block → Block) (s : State) : (s.mapBlock f).params = s.params := rfl
@[simp] theorem State.mapBlock_block (f : Block → Block) (s : State) : (s.mapBlock f).block = f s.block := rfl
@[simp] theorem State.mapBlock_rstN (f : Block → Block) (s : State) : (s.mapBlock f).rstN = s.rstN := rfl
@[simp] theorem State.mapBlock_now (f : Block → Block) (s : State) : (s.mapBlock f).now = s.now := rfl
@[simp] theorem State.mapBlock_draws (f : Block → Block) (s : State) : (s.mapBlock f).draws = s.draws := rfl
@[simp] theorem State.mapBlock_env (f : Block → Block) (s : State) : (s.mapBlock f).env = s.env := rfl
@[simp] theorem State.mapBlock_obs (f : Block → Block) (s : State) : (s.mapBlock f).obs = s.obs := rfl

/-! The start of a timed phase (42_transport.md R174, R176, R178): field by field. -/

@[simp] theorem State.startPhase_params (p : Phase) (us : BitVec 24) (s : State) :
    (s.startPhase p us).params = s.params := rfl
@[simp] theorem State.startPhase_block (p : Phase) (us : BitVec 24) (s : State) :
    (s.startPhase p us).block = s.block.enter p (s.deadline us) := rfl
@[simp] theorem State.startPhase_rstN (p : Phase) (us : BitVec 24) (s : State) :
    (s.startPhase p us).rstN = s.rstN := rfl
@[simp] theorem State.startPhase_now (p : Phase) (us : BitVec 24) (s : State) : (s.startPhase p us).now = s.now := rfl
@[simp] theorem State.startPhase_draws (p : Phase) (us : BitVec 24) (s : State) :
    (s.startPhase p us).draws = s.draws + 1 := rfl
@[simp] theorem State.startPhase_env (p : Phase) (us : BitVec 24) (s : State) : (s.startPhase p us).env = s.env := rfl
@[simp] theorem State.startPhase_obs (p : Phase) (us : BitVec 24) (s : State) : (s.startPhase p us).obs = s.obs := rfl

/-! `emit_char` (42_transport.md R173): field by field. -/

@[simp] theorem State.emitChar_params (b : Byte) (s : State) : (s.emitChar b).params = s.params := rfl
@[simp] theorem State.emitChar_block (b : Byte) (s : State) : (s.emitChar b).block = s.block := rfl
@[simp] theorem State.emitChar_rstN (b : Byte) (s : State) : (s.emitChar b).rstN = s.rstN := rfl
@[simp] theorem State.emitChar_now (b : Byte) (s : State) : (s.emitChar b).now = s.now := rfl
@[simp] theorem State.emitChar_draws (b : Byte) (s : State) : (s.emitChar b).draws = s.draws := rfl
@[simp] theorem State.emitChar_env (b : Byte) (s : State) : (s.emitChar b).env = s.env := rfl
@[simp] theorem State.emitChar_obs (b : Byte) (s : State) :
    (s.emitChar b).obs = { s.obs with txdTrace := s.obs.txdTrace ++ [{ byte := b, start := s.now, truncated := none }] } := rfl

/-! A host read (00_scope.md R11): field by field. -/

@[simp] theorem State.observe_params (v : Word) (s : State) : (s.observe v).params = s.params := rfl
@[simp] theorem State.observe_block (v : Word) (s : State) : (s.observe v).block = s.block := rfl
@[simp] theorem State.observe_rstN (v : Word) (s : State) : (s.observe v).rstN = s.rstN := rfl
@[simp] theorem State.observe_now (v : Word) (s : State) : (s.observe v).now = s.now := rfl
@[simp] theorem State.observe_draws (v : Word) (s : State) : (s.observe v).draws = s.draws := rfl
@[simp] theorem State.observe_env (v : Word) (s : State) : (s.observe v).env = s.env := rfl
@[simp] theorem State.observe_obs (v : Word) (s : State) :
    (s.observe v).obs = { s.obs with reads := s.obs.reads ++ [v] } := rfl

/-! A character taken off the bus script: field by field. -/

@[simp] theorem State.popBus_params (s : State) : (s.popBus).params = s.params := rfl
@[simp] theorem State.popBus_block (s : State) : (s.popBus).block = s.block := rfl
@[simp] theorem State.popBus_rstN (s : State) : (s.popBus).rstN = s.rstN := rfl
@[simp] theorem State.popBus_now (s : State) : (s.popBus).now = s.now := rfl
@[simp] theorem State.popBus_draws (s : State) : (s.popBus).draws = s.draws := rfl
@[simp] theorem State.popBus_env (s : State) : (s.popBus).env = { s.env with bus := s.env.bus.tail } := rfl
@[simp] theorem State.popBus_obs (s : State) : (s.popBus).obs = s.obs := rfl

/-! A statement taken off the host program: field by field. -/

@[simp] theorem State.popHost_params (s : State) : (s.popHost).params = s.params := rfl
@[simp] theorem State.popHost_block (s : State) : (s.popHost).block = s.block := rfl
@[simp] theorem State.popHost_rstN (s : State) : (s.popHost).rstN = s.rstN := rfl
@[simp] theorem State.popHost_now (s : State) : (s.popHost).now = s.now := rfl
@[simp] theorem State.popHost_draws (s : State) : (s.popHost).draws = s.draws := rfl
@[simp] theorem State.popHost_env (s : State) : (s.popHost).env = { s.env with host := s.env.host.tail } := rfl
@[simp] theorem State.popHost_obs (s : State) : (s.popHost).obs = s.obs := rfl

/-! A level change taken off the reset script: field by field. -/

@[simp] theorem State.popRst_params (s : State) : (s.popRst).params = s.params := rfl
@[simp] theorem State.popRst_block (s : State) : (s.popRst).block = s.block := rfl
@[simp] theorem State.popRst_rstN (s : State) : (s.popRst).rstN = s.rstN := rfl
@[simp] theorem State.popRst_now (s : State) : (s.popRst).now = s.now := rfl
@[simp] theorem State.popRst_draws (s : State) : (s.popRst).draws = s.draws := rfl
@[simp] theorem State.popRst_env (s : State) : (s.popRst).env = { s.env with rst := s.env.rst.tail } := rfl
@[simp] theorem State.popRst_obs (s : State) : (s.popRst).obs = s.obs := rfl

/-! Time's step: only `now` changes. -/

@[simp] theorem timeStep_params (t : Nat) (s : State) : (timeStep t s).params = s.params := rfl
@[simp] theorem timeStep_block (t : Nat) (s : State) : (timeStep t s).block = s.block := rfl
@[simp] theorem timeStep_rstN (t : Nat) (s : State) : (timeStep t s).rstN = s.rstN := rfl
@[simp] theorem timeStep_now (t : Nat) (s : State) : (timeStep t s).now = t := rfl
@[simp] theorem timeStep_draws (t : Nat) (s : State) : (timeStep t s).draws = s.draws := rfl
@[simp] theorem timeStep_env (t : Nat) (s : State) : (timeStep t s).env = s.env := rfl
@[simp] theorem timeStep_obs (t : Nat) (s : State) : (timeStep t s).obs = s.obs := rfl

/-! Noting the lines: only the `dir` and `irq` traces change. -/

@[simp] theorem noteLines_params (s t : State) : (noteLines s t).params = t.params := rfl
@[simp] theorem noteLines_block (s t : State) : (noteLines s t).block = t.block := rfl
@[simp] theorem noteLines_rstN (s t : State) : (noteLines s t).rstN = t.rstN := rfl
@[simp] theorem noteLines_now (s t : State) : (noteLines s t).now = t.now := rfl
@[simp] theorem noteLines_draws (s t : State) : (noteLines s t).draws = t.draws := rfl
@[simp] theorem noteLines_env (s t : State) : (noteLines s t).env = t.env := rfl
@[simp] theorem noteLines_reads (s t : State) : (noteLines s t).obs.reads = t.obs.reads := rfl
@[simp] theorem noteLines_txdTrace (s t : State) : (noteLines s t).obs.txdTrace = t.obs.txdTrace := rfl
@[simp] theorem noteLines_dirTrace (s t : State) :
    (noteLines s t).obs.dirTrace = t.obs.dirTrace ++ edgeOf s.dir t.dir t.now := rfl
@[simp] theorem noteLines_irqTrace (s t : State) :
    (noteLines s t).obs.irqTrace = t.obs.irqTrace ++ edgeOf s.irq t.irq t.now := rfl

/-! Taking an entry off the tie order: only `env.ties` changes. -/

@[simp] theorem State.popTie_params (tie : Bool) (s : State) : (s.popTie tie).params = s.params := by cases tie <;> rfl
@[simp] theorem State.popTie_block (tie : Bool) (s : State) : (s.popTie tie).block = s.block := by cases tie <;> rfl
@[simp] theorem State.popTie_rstN (tie : Bool) (s : State) : (s.popTie tie).rstN = s.rstN := by cases tie <;> rfl
@[simp] theorem State.popTie_now (tie : Bool) (s : State) : (s.popTie tie).now = s.now := by cases tie <;> rfl
@[simp] theorem State.popTie_draws (tie : Bool) (s : State) : (s.popTie tie).draws = s.draws := by cases tie <;> rfl
@[simp] theorem State.popTie_obs (tie : Bool) (s : State) : (s.popTie tie).obs = s.obs := by cases tie <;> rfl
@[simp] theorem State.popTie_host (tie : Bool) (s : State) : (s.popTie tie).env.host = s.env.host := by cases tie <;> rfl
@[simp] theorem State.popTie_bus (tie : Bool) (s : State) : (s.popTie tie).env.bus = s.env.bus := by cases tie <;> rfl
@[simp] theorem State.popTie_rst (tie : Bool) (s : State) : (s.popTie tie).env.rst = s.env.rst := by cases tie <;> rfl
@[simp] theorem State.popTie_polls (tie : Bool) (s : State) : (s.popTie tie).env.polls = s.env.polls := by cases tie <;> rfl

/-! Going round the loop of POLL_DONE: only `draws`, `env.host` and `env.polls` change (30_encoding.md R101). -/

@[simp] theorem State.pollAgain_params (s : State) : s.pollAgain.params = s.params := rfl
@[simp] theorem State.pollAgain_block (s : State) : s.pollAgain.block = s.block := rfl
@[simp] theorem State.pollAgain_rstN (s : State) : s.pollAgain.rstN = s.rstN := rfl
@[simp] theorem State.pollAgain_now (s : State) : s.pollAgain.now = s.now := rfl
@[simp] theorem State.pollAgain_draws (s : State) : s.pollAgain.draws = s.draws + 1 := rfl
@[simp] theorem State.pollAgain_obs (s : State) : s.pollAgain.obs = s.obs := rfl
@[simp] theorem State.pollAgain_host (s : State) :
    s.pollAgain.env.host = .pollDone (s.now + s.pollGap) :: s.env.host := rfl
@[simp] theorem State.pollAgain_bus (s : State) : s.pollAgain.env.bus = s.env.bus := rfl
@[simp] theorem State.pollAgain_rst (s : State) : s.pollAgain.env.rst = s.env.rst := rfl
@[simp] theorem State.pollAgain_ties (s : State) : s.pollAgain.env.ties = s.env.ties := rfl
@[simp] theorem State.pollAgain_polls (s : State) : s.pollAgain.env.polls = s.env.polls.tail := rfl

end Sys2Proof.Machine
end

