-- ==== Sys2Proof/Laws/Ops.lean ====
section
/-! SUPPORT. For each shared operation, what it can do, said once: acceptance of a command, timed phases, buffers,
decoding of bytes, the register map, the Engine, the receiver and the step. Later proofs cite these. -/

namespace Sys2Proof.Machine

/-! The frame of every command (30_encoding.md R95). -/

theorem State.ready_iff (s : State) : s.ready = true ↔ s.rstN = true ∧ s.block.busy = false := by
  simp [State.ready]

theorem State.view_of_released {s : State} (h : s.rstN = true) : s.view = s.block := by simp [State.view, h]

theorem State.view_of_held {s : State} (h : s.rstN = false) : s.view = Block.reset := by simp [State.view, h]

theorem command_of_held {s : State} (h : s.rstN = false) (l : Bool) (f : State → State) : command l f s = s := by
  simp [command, h]

theorem command_of_busy {s : State} (h : s.rstN = true) (hb : s.block.busy = true) (l : Bool) (f : State → State) :
    command l f s = s.mapBlock Block.markBusyWr := by
  simp [command, h, hb]

theorem command_of_illegal {s : State} (h : s.ready = true) (f : State → State) :
    command false f s = s.mapBlock fun b => b.accept.complete .illegalCmd := by
  simp_all [command, State.ready_iff]

theorem command_of_legal {s : State} (h : s.ready = true) (f : State → State) :
    command true f s = f (s.mapBlock Block.accept) := by
  simp_all [command, State.ready_iff]

/-- Everything the frame of a command can do. -/
theorem command_cases (l : Bool) (f : State → State) (s : State) :
    (s.rstN = false ∧ command l f s = s)
      ∨ (s.rstN = true ∧ s.block.busy = true ∧ command l f s = s.mapBlock Block.markBusyWr)
      ∨ (s.ready = true ∧ l = false ∧ command l f s = s.mapBlock fun b => b.accept.complete .illegalCmd)
      ∨ (s.ready = true ∧ l = true ∧ command l f s = f (s.mapBlock Block.accept)) := by
  unfold command State.ready
  cases s.rstN <;> cases s.block.busy <;> cases l <;> simp

theorem withPort_of_open {s : State} (h : s.block.portEn = true) (f : State → State) : withPort f s = f s := by
  simp [withPort, h]

theorem withPort_of_closed {s : State} (h : s.block.portEn = false) (f : State → State) :
    withPort f s = s.mapBlock (Block.complete .transportError) := by
  simp [withPort, h]

/-- Every command answers a next state, whatever the state: no command word stops the machine (00_scope.md R10). -/
theorem exec_answers_next (i : Instr) (s : State) : ∃ t, exec i s = .next t := by
  cases i <;> exact ⟨_, rfl⟩

/-! Timed phases. -/

theorem State.slack_le (s : State) : s.slack ≤ s.params.timerSlackNs := by
  unfold State.slack
  split
  · omega
  · rename_i k h
    rw [h]
    exact Nat.le_of_lt_succ (Nat.mod_lt _ (by omega))

theorem State.slack_of_default {s : State} (h : s.params.timerSlackNs = 0) : s.slack = 0 := by
  have := s.slack_le
  omega

theorem State.le_deadline (s : State) (us : BitVec 24) : s.now + 1000 * us.toNat ≤ s.deadline us := by
  simp [State.deadline]

theorem State.deadline_le (s : State) (us : BitVec 24) :
    s.deadline us ≤ s.now + 1000 * us.toNat + s.params.timerSlackNs := by
  have := s.slack_le
  simp only [State.deadline]
  omega

theorem State.deadline_of_default {s : State} (h : s.params.timerSlackNs = 0) (us : BitVec 24) :
    s.deadline us = s.now + 1000 * us.toNat := by
  simp [State.deadline, State.slack_of_default h]

/-- A deadline depends on the parameters, the time and the draws alone. -/
theorem State.deadline_mapBlock (f : Block → Block) (s : State) (us : BitVec 24) :
    (s.mapBlock f).deadline us = s.deadline us := rfl

/-! Buffers. -/

theorem bufGet_bufOf (f : Nat → Byte) {k : Nat} (h : k < 8) : bufGet (bufOf f) k = f k := by
  interval_cases k <;> rfl

theorem bufGet_of_le (b : Buf) {k : Nat} (h : 8 ≤ k) : bufGet b k = 0 := by
  simp [bufGet, h]

@[simp] theorem bufGet_bufZero (k : Nat) : bufGet bufZero k = 0 := by
  rcases Nat.lt_or_ge k 8 with h | h
  · exact bufGet_bufOf _ h
  · exact bufGet_of_le _ h

theorem bufGet_bufSet_same (b : Buf) {k : Nat} (h : k < 8) (x : Byte) : bufGet (bufSet b k x) k = x := by
  simp [bufGet, bufSet, h]

theorem bufGet_bufSet_ne (b : Buf) {k j : Nat} (h : k ≠ j) (x : Byte) : bufGet (bufSet b k x) j = bufGet b j := by
  simp [bufGet, bufSet, h]

/-! The request of a transaction (41_codec.md R146, 43_transactions.md R210). -/

/-- Encoding again changes nothing exactly when TXBUF, TXLEN and CRC are those of the frame in TXF. -/
theorem Block.encodeIntoTxbuf_eq_self (v : CrcVariant) (n : Nat) (b : Block) :
    b.encodeIntoTxbuf v n = b ↔
      (bufOf fun k => (encodeBytes (b.txFrame v n)).getD k 0) = b.txbuf ∧ BitVec.ofNat 4 (n + 4) = b.txlen
        ∧ (b.txFrame v n).crc = b.crc := by
  constructor
  · intro h
    exact ⟨congrArg Block.txbuf h, congrArg Block.txlen h, congrArg Block.crc h⟩
  · rintro ⟨h1, h2, h3⟩
    cases b
    simp only [Block.encodeIntoTxbuf, h1, h2, h3]

/-- So it depends on TXF, TXBUF, TXLEN and CRC alone. -/
theorem Block.encodeIntoTxbuf_eq_self_congr {b c : Block} (v : CrcVariant) (n : Nat) (h1 : c.txf = b.txf) (h2 : c.txbuf = b.txbuf)
    (h3 : c.txlen = b.txlen) (h4 : c.crc = b.crc) :
    c.encodeIntoTxbuf v n = c ↔ b.encodeIntoTxbuf v n = b := by
  have h : c.txFrame v n = b.txFrame v n := by simp [Block.txFrame, h1]
  rw [Block.encodeIntoTxbuf_eq_self, Block.encodeIntoTxbuf_eq_self, h, h2, h3, h4]

/-! Decoding of bytes (41_codec.md R142). -/

theorem decodeBytes_of_short {bs : List Byte} {n : Nat} (h : bs.length < n) : decodeBytes bs n = .shortRead := by
  simp [decodeBytes, h]

theorem decodeBytes_of_long {bs : List Byte} {n : Nat} (h : n ≤ bs.length) :
    decodeBytes bs n = .frame
      { addr := bs.getD 0 0, cmd := bs.getD 1 0, data := (bs.drop 2).take (n - 4)
        crc := bs.getD (n - 1) 0 ++ bs.getD (n - 2) 0 } := by
  simp [decodeBytes, Nat.not_lt.mpr h]

theorem Block.rxBytes_length (b : Block) : b.rxBytes.length = min b.rxcnt.toNat 8 := by
  simp [Block.rxBytes]

theorem Block.txBytes_length (b : Block) : b.txBytes.length = min b.txlen.toNat 8 := by
  simp [Block.txBytes]

/-! The CRC fold. -/

/-- At the default CRC_VARIANT `crc16` is the fold and nothing after it (40_crc.md R121). -/
theorem crc16_modbus (xs : List Byte) : crc16 .modbus xs = crcFold .modbus 0xFFFF xs := rfl

theorem crcFold_append (v : CrcVariant) (c : Half) (xs ys : List Byte) :
    crcFold v c (xs ++ ys) = crcFold v (crcFold v c xs) ys := by
  simp [crcFold, List.foldl_append]

theorem crc16_modbus_append (xs ys : List Byte) :
    crc16 .modbus (xs ++ ys) = crcFold .modbus (crc16 .modbus xs) ys := crcFold_append _ _ _ _

/-! The register map (10_state.md R20). -/

@[simp] theorem regAt_offset (r : Reg) : regAt r.offset = some r := by cases r <;> rfl

@[simp] theorem admitted_offset (r : Reg) : admitted r.offset 4 = true := by cases r <;> rfl

theorem admitted_iff (off : Offset) (size : Nat) : admitted off size = true ↔ size = 4 ∧ off.toNat % 4 = 0 := by
  have h : (off.extractLsb' 0 2 = 0) ↔ off.toNat % 4 = 0 := by
    rw [← BitVec.toNat_inj]
    simp [BitVec.extractLsb'_toNat]
  simpa [admitted] using fun _ => h

/-! The Engine and the receiver. -/

/-- Everything a close of the window can do (42_transport.md R183). -/
theorem closeRx_next {s t : State} (h : closeRx s = .next t) :
    (s.block.op = .receive ∧ t = s.mapBlock (Block.complete .ok))
      ∨ ((s.block.op = .regXact ∨ s.block.op = .coilXact) ∧ t = s.mapBlock (Block.finishXact s.params.crcVariant)) := by
  unfold closeRx at h
  split at h <;> simp_all

/-- Everything an end of drain can do (42_transport.md R177). -/
theorem endDrain_next {s t : State} (h : endDrain s = .next t) :
    (s.block.op = .send ∧ t = s.mapBlock (Block.complete .ok))
      ∨ (s.block.op = .regXact ∧ t = openRx 7 s) ∨ (s.block.op = .coilXact ∧ t = openRx 6 s) := by
  unfold endDrain at h
  split at h <;> simp_all

/-- Everything an Engine step can do (00_scope.md R8). -/
theorem engineStep_next {s t : State} (h : engineStep s = .next t) :
    (s.block.phase = .settle ∧ t = endSettle s) ∨ (s.block.phase = .shift ∧ t = endChar s)
      ∨ (s.block.phase = .drain ∧ endDrain s = .next t) ∨ (s.block.phase = .rxwait ∧ closeRx s = .next t) := by
  unfold engineStep at h
  split at h <;> simp_all

/-- Everything the end of a received character can do (42_transport.md R179 to R181). -/
theorem rxChar_next {x : Byte} {s t : State} (h : rxChar x s = .next t) :
    (charFits s = false ∧ t = s.mapBlock Block.dropChar)
      ∨ (charFits s = true ∧ (s.block.rxcnt + 1).toNat ≠ s.block.rxN ∧ t = s.mapBlock (Block.storeChar x))
      ∨ (charFits s = true ∧ (s.block.rxcnt + 1).toNat = s.block.rxN
          ∧ closeRx (s.mapBlock (Block.storeChar x)) = .next t) := by
  unfold rxChar at h
  split at h
  · by_cases hn : (s.block.rxcnt + 1).toNat = s.block.rxN <;> simp_all
  · simp_all

/-- Everything a delivery can do: a held block discards the character; otherwise it is received, its byte a free value
if it came with an error (70_reset_and_hazards.md R272, 42_transport.md R186). -/
theorem deliver_next {c : Option Byte} {s t : State} (h : deliver c s = .next t) :
    (s.rstN = false ∧ t = s)
      ∨ (s.rstN = true ∧ ∃ x, c = some x ∧ rxChar x s = .next t)
      ∨ (s.rstN = true ∧ c = none ∧ rxChar (Config.badCharByte s.draws) { s with draws := s.draws + 1 } = .next t) := by
  unfold deliver at h
  split at h
  · simp_all
  · cases c <;> simp_all

/-! The host port. -/

/-- `command_write` answers a next state on every word (30_encoding.md R95). -/
theorem commandWrite_answers_next (v : Word) (s : State) : ∃ t, commandWrite v s = .next t := by
  unfold commandWrite
  split
  · exact exec_answers_next _ _
  · exact ⟨_, rfl⟩

/-- Everything an admitted write can do (20_memory.md R64). -/
theorem writeOffset_next {off : Offset} {v : Word} {s t : State} (h : writeOffset off v s = .next t) :
    (t = s ∧ (s.rstN = false ∨ regAt off = none))
      ∨ (s.rstN = true ∧ regAt off = some .cmd ∧ commandWrite v s = .next t)
      ∨ (s.rstN = true ∧ ∃ r, r ≠ .cmd ∧ regAt off = some r ∧ t = s.mapBlock fun b => b.writeReg r v) := by
  unfold writeOffset at h
  split at h
  · simp_all
  · split at h
    · simp_all
    · rename_i r hne hr
      refine .inr (.inr ⟨by simp_all, r, hne, ?_, by simpa using h.symm⟩)
      assumption
    · simp_all

/-- Everything one turn of POLL_DONE does (30_encoding.md R101): it reads STATUS, and it ends exactly when the read value
has DONE = 1. -/
theorem hostPoll_eq (s : State) :
    hostPoll s = .next
      (if s.view.done then s.observe (s.view.readReg .status) else (s.observe (s.view.readReg .status)).pollAgain) := by
  have hb (x : BitVec 30) (c d : Bool) : (x ++ BitVec.ofBool c ++ BitVec.ofBool d).getLsbD 1 = c := by
    rw [BitVec.getLsbD_append, BitVec.getLsbD_append]; simp
  have h : (s.view.readReg .status)[1] = s.view.done := hb _ _ _
  have hr : s.view.readOffset (Reg.offset .status) = s.view.readReg .status := rfl
  simp [hostPoll, hostRead, hr, h]

/-! Who steps next. -/

/-- A reset edge is due exactly when the reset script begins with one at or before now. -/
theorem State.resetDue_iff (s : State) : s.resetDue = true ↔ ∃ e es, s.env.rst = e :: es ∧ e.time ≤ s.now := by
  unfold State.resetDue
  cases s.env.rst <;> simp

theorem State.busDue_iff (s : State) : s.busDue = true ↔ ∃ c cs, s.env.bus = c :: cs ∧ c.endTime ≤ s.now := by
  unfold State.busDue
  cases s.env.bus <;> simp

/-- While the host has a statement left, its next statement is ready or the instant at which it will be is known: the host
never hangs (00_scope.md R10 (c)). -/
theorem State.host_waits_for_an_instant {s : State} (h : earliest s.instants = none) (hh : s.hostReady = false) :
    s.env.host = [] := by
  have hi : s.instants = [] := by
    cases ht : s.instants with
    | nil => rfl
    | cons a ts => rw [ht] at h; unfold earliest at h; split at h <;> simp at h
  unfold State.instants at hi
  unfold State.hostReady at hh
  cases hc : s.env.host with
  | nil => rfl
  | cons c cs => cases c <;> simp_all

/-- Everything the choice of the next agent can say (00_scope.md R8, R9). -/
theorem State.nextAction_cases (s : State) :
    (s.nextAction = .reset ∧ s.resetDue = true)
      ∨ (s.nextAction = .engine ∧ s.resetDue = false ∧ s.engineDue = true)
      ∨ (∃ tie, s.nextAction = .bus tie ∧ s.resetDue = false ∧ s.engineDue = false ∧ s.busDue = true)
      ∨ (∃ tie, s.nextAction = .host tie ∧ s.resetDue = false ∧ s.engineDue = false ∧ s.hostReady = true)
      ∨ (∃ t, s.nextAction = .time t ∧ s.resetDue = false ∧ s.engineDue = false ∧ s.busDue = false
          ∧ s.hostReady = false ∧ earliest s.instants = some t)
      ∨ (s.nextAction = .finished ∧ s.resetDue = false ∧ s.engineDue = false ∧ s.busDue = false
          ∧ s.hostReady = false ∧ earliest s.instants = none) := by
  unfold State.nextAction
  cases hr : s.resetDue <;> cases he : s.engineDue <;> cases hb : s.busDue <;> cases hh : s.hostReady <;> simp
  · cases earliest s.instants <;> simp
  · by_cases ht : s.env.ties.head? = some Agent.host <;> simp [ht]

/-- The step from s notes the lines of what the chosen agent did. -/
theorem step_next {s t : State} (h : step s = .next t) : ∃ u, perform s.nextAction s = .next u ∧ t = noteLines s u := by
  unfold step takeStep noteOutcome at h
  split at h <;> simp_all

theorem step_of_perform {s u : State} (h : perform s.nextAction s = .next u) : step s = .next (noteLines s u) := by
  simp [step, takeStep, noteOutcome, h]

/-- Everything a step that answers a next state can do (00_scope.md R8): exactly one of the reset input, the Engine, the
Bus, the Host and Time moves, in that order of precedence, and then the lines are noted. -/
theorem step_cases {s t : State} (h : step s = .next t) :
    ∃ u, t = noteLines s u ∧
      ((∃ e es, s.env.rst = e :: es ∧ e.time ≤ s.now ∧ u = s.popRst.setRst e.level)
        ∨ (s.resetDue = false ∧ s.engineDue = true ∧ engineStep s = .next u)
        ∨ (s.resetDue = false ∧ s.engineDue = false ∧ ∃ tie c cs, s.env.bus = c :: cs ∧ c.endTime ≤ s.now
            ∧ deliver c.byte (s.popTie tie).popBus = .next u)
        ∨ (s.resetDue = false ∧ s.engineDue = false ∧ s.hostReady = true ∧ ∃ tie c cs, s.env.host = c :: cs
            ∧ hostStmt c (s.popTie tie).popHost = .next u)
        ∨ (s.resetDue = false ∧ s.engineDue = false ∧ s.busDue = false ∧ s.hostReady = false
            ∧ ∃ v, earliest s.instants = some v ∧ u = timeStep v s)) := by
  obtain ⟨u, hp, rfl⟩ := step_next h
  refine ⟨u, rfl, ?_⟩
  obtain ⟨ha, hr⟩ | ⟨ha, hr, he⟩ | ⟨tie, ha, hr, he, hb⟩ | ⟨tie, ha, hr, he, hh⟩ | ⟨v, ha, hr, he, hb, hh, hv⟩
    | ⟨ha, -⟩ := s.nextAction_cases
  · obtain ⟨e, es, hes, hle⟩ := s.resetDue_iff.mp hr
    exact .inl ⟨e, es, hes, hle, by simpa [ha, perform, resetStep, hes, eq_comm] using hp⟩
  · exact .inr (.inl ⟨hr, he, by simpa [ha, perform] using hp⟩)
  · obtain ⟨c, cs, hcs, hle⟩ := s.busDue_iff.mp hb
    exact .inr (.inr (.inl ⟨hr, he, tie, c, cs, hcs, hle, by simpa [ha, perform, busStep, hcs] using hp⟩))
  · refine .inr (.inr (.inr (.inl ⟨hr, he, hh, tie, ?_⟩)))
    cases hcs : s.env.host with
    | nil => simp [State.hostReady, hcs] at hh
    | cons c cs => exact ⟨c, cs, rfl, by simpa [ha, perform, hostStep, hcs] using hp⟩
  · exact .inr (.inr (.inr (.inr ⟨hr, he, hb, hh, v, hv, by simpa [ha, perform, eq_comm] using hp⟩)))
  · simp [ha, perform] at hp

/-- The earliest of a list of instants is one of them and no later than any (00_scope.md R9). -/
theorem earliest_some {ts : List Nat} {t : Nat} (h : earliest ts = some t) : t ∈ ts ∧ ∀ u ∈ ts, t ≤ u := by
  induction ts generalizing t with
  | nil => simp [earliest] at h
  | cons a ts ih =>
    unfold earliest at h
    split at h
    · rename_i hn
      cases ts with
      | nil => simp_all
      | cons b bs => unfold earliest at hn; split at hn <;> simp at hn
    · rename_i v hv
      obtain ⟨hm, hle⟩ := ih hv
      simp only [Option.some.injEq] at h
      subst h
      refine ⟨?_, ?_⟩
      · rcases Nat.le_total a v with hav | hav
        · simp [Nat.min_eq_left hav]
        · simp [Nat.min_eq_right hav, hm]
      · intro u hu
        rcases List.mem_cons.mp hu with rfl | hu
        · exact Nat.min_le_left _ _
        · exact Nat.le_trans (Nat.min_le_right _ _) (hle u hu)

end Sys2Proof.Machine
end

