-- ==== Sys2Proof/Laws/Check.lean ====
section
/-! SUPPORT. A decidable check of the invariant, for concrete states: what it accepts meets `State.Inv`. -/

namespace Sys2Proof.Machine

/-- `Block.opFits` as a test. -/
def Block.opCheck (b : Block) : Bool :=
  match b.phase with
  | .idle   => b.op == .none
  | .settle => b.op == .send || b.op == .regXact || b.op == .coilXact
  | .shift  => b.op == .send || b.op == .regXact || b.op == .coilXact
  | .drain  => b.op == .send || b.op == .regXact || b.op == .coilXact
  | .rxwait => b.op == .receive || b.op == .regXact || b.op == .coilXact

/-- The invariant of the block as a test; bytes of RXBUF past index 7 need none, they read 0. -/
def Block.check (v : CrcVariant) (b : Block) : Bool :=
  b.opCheck
    && (!b.busy || (!b.done && b.result == .ok && b.portEn))
    && (!b.phase.sending || (decide (1 ≤ b.txlen.toNat) && decide (b.txlen.toNat ≤ 8)))
    && (b.phase != .shift || decide (b.txIdx < b.txlen.toNat))
    && (b.op != .regXact || b.encodeIntoTxbuf v 4 == b)
    && (b.op != .coilXact || b.encodeIntoTxbuf v 2 == b)
    && (b.phase != .rxwait || (decide (b.rxcnt.toNat < b.rxN) && decide (b.rxN ≤ 8)
        && (b.op != .regXact || b.rxN == 7) && (b.op != .coilXact || b.rxN == 6)))
    && (decide (b.rxcnt.toNat ≤ 8) && (List.range 8).all fun k => decide (k < b.rxcnt.toNat) || bufGet b.rxbuf k == 0)
    && (b.dlen == 0 || b.dlen == 2 || b.dlen == 3 || b.dlen == 4)
    && (b.dlen != 0 || b.rxf == rxFieldsZero)
    && (decide (2 < b.dlen.toNat) || b.rxf.d2 == 0) && (decide (3 < b.dlen.toNat) || b.rxf.d3 == 0)
    && (!b.valid || (b.dlen != 0 && validateFrame v b.rxFrame))

theorem Block.inv_of_check {v : CrcVariant} {b : Block} (h : b.check v = true) : b.Inv v := by
  simp only [Block.check, Bool.and_eq_true] at h
  obtain ⟨⟨⟨⟨⟨⟨⟨⟨⟨⟨⟨⟨h1, h2⟩, h3⟩, h4⟩, h5⟩, h6⟩, h7⟩, h8⟩, h9⟩, h10⟩, h11⟩, h12⟩, h13⟩ := h
  refine ⟨?_, ?_, ⟨?_, ?_⟩, ⟨?_, ?_⟩, ?_, ⟨h8.1 |> of_decide_eq_true, ?_⟩, ⟨?_, ?_, ?_, ?_, ?_⟩⟩
  · unfold Block.opFits
    unfold Block.opCheck at h1
    split at h1 <;> simp_all [or_assoc]
  · intro hb; simp_all
  · intro hb; simp_all
  · intro hb; simp_all
  · intro hb; simp_all
  · intro hb; simp_all
  · intro hb; simp_all [or_iff_not_imp_left]
  · intro k hk
    rcases Nat.lt_or_ge k 8 with hlt | hge
    · have := List.all_eq_true.mp h8.2 k (List.mem_range.mpr hlt)
      simp_all [Nat.not_lt.mpr hk]
    · exact bufGet_of_le _ hge
  · simpa [or_assoc] using h9
  · intro hb; simp_all
  · intro hb
    rcases Bool.or_eq_true _ _ ▸ h11 with h | h
    · have := of_decide_eq_true h; omega
    · simpa using h
  · intro hb
    rcases Bool.or_eq_true _ _ ▸ h12 with h | h
    · have := of_decide_eq_true h; omega
    · simpa using h
  · intro hb; simp_all

/-- The invariant of the machine as a test. -/
def State.check (s : State) : Bool :=
  decide (0 < s.params.charNs)
    && (s.rstN || s.block == Block.reset)
    && s.block.check s.params.crcVariant
    && (!s.block.busy || decide (s.now ≤ s.block.tDead))
    && (s.block.phase != .rxwait
        || (decide (s.block.tOpen ≤ s.now) && decide (s.block.tOpen + 1000 * s.block.tRxto.toNat ≤ s.block.tDead)
          && decide (s.block.tDead ≤ s.block.tOpen + 1000 * s.block.tRxto.toNat + s.params.timerSlackNs)))
    && (s.block.phase != .shift || decide (s.block.tDead ≤ s.now + s.params.charNs))
    && (decide ((s.env.bus.map BusChar.endTime).Pairwise (· ≤ ·)) && decide (∀ c ∈ s.env.bus, s.now ≤ c.endTime)
        && decide ((s.env.rst.map Edge.time).Pairwise (· ≤ ·)) && decide (∀ e ∈ s.env.rst, s.now ≤ e.time))

theorem State.inv_of_check {s : State} (h : s.check = true) : s.Inv := by
  simp only [State.check, Bool.and_eq_true] at h
  obtain ⟨⟨⟨⟨⟨⟨h1, h2⟩, h3⟩, h4⟩, h5⟩, h6⟩, h7⟩ := h
  refine ⟨of_decide_eq_true h1, fun hr => ?_, Block.inv_of_check h3, fun hb => ?_, fun hb => ?_, fun hb => ?_, ?_⟩
  · simp_all
  · simp_all
  · simp_all
  · simp_all
  · exact ⟨of_decide_eq_true h7.1.1.1, of_decide_eq_true h7.1.1.2, of_decide_eq_true h7.1.2, of_decide_eq_true h7.2⟩

end Sys2Proof.Machine
end

