-- ==== Sys2Proof/Laws/Fields.lean ====
section
/-! SUPPORT. The five fields of a command word built by the encoder are the ones it was built from (30_encoding.md R90). -/

namespace Sys2Proof

/-- A command word as a number: OP, then BYTE from bit 8, then N from bit 16. -/
theorem commandWord_toNat (op : BitVec 4) (b : Byte) (n : BitVec 4) :
    (commandWord op b n).toNat = op.toNat + b.toNat * 256 + n.toNat * 65536 := by
  have h1 := op.isLt
  have h2 := b.isLt
  have h3 := n.isLt
  simp only [commandWord, BitVec.toNat_append, BitVec.toNat_ofNat]
  rw [← Nat.shiftLeft_add_eq_or_of_lt (by omega), ← Nat.shiftLeft_add_eq_or_of_lt (by omega),
    ← Nat.shiftLeft_add_eq_or_of_lt (by omega), ← Nat.shiftLeft_add_eq_or_of_lt (by omega)]
  simp only [Nat.shiftLeft_eq]
  omega

theorem fields_commandWord (op : BitVec 4) (b : Byte) (n : BitVec 4) :
    opField (commandWord op b n) = op ∧ lowZeroField (commandWord op b n) = 0#4 ∧ byteField (commandWord op b n) = b
      ∧ lengthField (commandWord op b n) = n ∧ highZeroField (commandWord op b n) = 0#12 := by
  have h1 := op.isLt
  have h2 := b.isLt
  have h3 := n.isLt
  refine ⟨?_, ?_, ?_, ?_, ?_⟩ <;> apply BitVec.eq_of_toNat_eq <;>
    simp only [opField, lowZeroField, byteField, lengthField, highZeroField, BitVec.extractLsb'_toNat, commandWord_toNat,
      Nat.shiftRight_eq_div_pow, BitVec.toNat_ofNat] <;> omega

@[simp] theorem opField_commandWord (op : BitVec 4) (b : Byte) (n : BitVec 4) : opField (commandWord op b n) = op :=
  (fields_commandWord op b n).1

@[simp] theorem lowZeroField_commandWord (op : BitVec 4) (b : Byte) (n : BitVec 4) :
    lowZeroField (commandWord op b n) = 0 := (fields_commandWord op b n).2.1

@[simp] theorem byteField_commandWord (op : BitVec 4) (b : Byte) (n : BitVec 4) : byteField (commandWord op b n) = b :=
  (fields_commandWord op b n).2.2.1

@[simp] theorem lengthField_commandWord (op : BitVec 4) (b : Byte) (n : BitVec 4) : lengthField (commandWord op b n) = n :=
  (fields_commandWord op b n).2.2.2.1

@[simp] theorem highZeroField_commandWord (op : BitVec 4) (b : Byte) (n : BitVec 4) :
    highZeroField (commandWord op b n) = 0 := (fields_commandWord op b n).2.2.2.2

end Sys2Proof
end

