-- ==== Sys2Proof/Laws/PerInstr.lean ====
section
/-! SUPPORT. One lemma for each command: the fields of its word, as the opcode map and the operand rules of 30_encoding.md
give them (R90 to R93, R100). -/

namespace Sys2Proof.Laws.WordFields

/-- The OP number of a command (30_encoding.md R91). -/
def opNumber : Instr → BitVec 4
  | .crcInit   => 1
  | .crcFeed _ => 2
  | .encode _  => 3
  | .decode _  => 4
  | .validate  => 5
  | .send      => 6
  | .receive _ => 7
  | .regXact   => 8
  | .coilXact  => 9

/-- BYTE: the operand of CRC_FEED, and 0 for every other command (30_encoding.md R92). -/
def byteOperand : Instr → Byte
  | .crcInit   => 0
  | .crcFeed b => b
  | .encode _  => 0
  | .decode _  => 0
  | .validate  => 0
  | .send      => 0
  | .receive _ => 0
  | .regXact   => 0
  | .coilXact  => 0

/-- N: the operand of ENCODE, DECODE and RECEIVE, and 0 for every other command (30_encoding.md R93). -/
def lengthOperand : Instr → BitVec 4
  | .crcInit   => 0
  | .crcFeed _ => 0
  | .encode n  => n
  | .decode l  => l
  | .validate  => 0
  | .send      => 0
  | .receive n => n
  | .regXact   => 0
  | .coilXact  => 0

/-- The word of i has i's OP, BYTE and N in their places and zeros in the must-be-zero bits. -/
def Statement (i : Instr) : Prop :=
  opField (encodeWord i) = opNumber i ∧ byteField (encodeWord i) = byteOperand i
    ∧ lengthField (encodeWord i) = lengthOperand i ∧ lowZeroField (encodeWord i) = 0 ∧ highZeroField (encodeWord i) = 0

theorem of_commandWord {i : Instr} (h : encodeWord i = commandWord (opNumber i) (byteOperand i) (lengthOperand i)) :
    Statement i := by
  simp [Statement, h]

theorem crcInit : Statement .crcInit := of_commandWord rfl

theorem crcFeed (b : Byte) : Statement (.crcFeed b) := of_commandWord rfl

theorem encode (n : BitVec 4) : Statement (.encode n) := of_commandWord rfl

theorem decode (len : BitVec 4) : Statement (.decode len) := of_commandWord rfl

theorem validate : Statement .validate := of_commandWord rfl

theorem send : Statement .send := of_commandWord rfl

theorem receive (n : BitVec 4) : Statement (.receive n) := of_commandWord rfl

theorem regXact : Statement .regXact := of_commandWord rfl

theorem coilXact : Statement .coilXact := of_commandWord rfl

end Sys2Proof.Laws.WordFields
end

