-- ==== Sys2Proof/Machine/HostProgram.lean ====
section
/-! DEFINITION. The host-program notation and its pseudo-instructions (30_encoding.md R100, R101; 43_transactions.md
R217). It is host level: these functions only write host programs, and no rule of the block reads them. -/

namespace Sys2Proof.Machine

/-- `WR REG, v` (30_encoding.md R101). -/
def hostWr (r : Reg) (v : Word) : HostStmt := .wr r.offset 4 v

/-- `RD REG` (30_encoding.md R101). -/
def hostRd (r : Reg) : HostStmt := .rd r.offset 4

/-- A command mnemonic as a statement: `WR CMD, <word>` (30_encoding.md R100). -/
def hostCmd (i : Instr) : HostStmt := hostWr .cmd (encodeWord i)

/-- `POLL_DONE` (30_encoding.md R101): its first read is at once. -/
def hostPollDone : HostStmt := .pollDone 0

/-- `FRAME a, c, d0, d1, d2, d3` (30_encoding.md R101). -/
def hostFrame (a c d0 d1 d2 d3 : Byte) : List HostStmt :=
  [hostWr .txf0 (ofLanes a c d0 d1), hostWr .txf1 (ofLanes d2 d3 0 0)]

/-- `XREG a, op, reg16, vh, vl`: the source's register_transaction, register number high byte first (30_encoding.md
R101, 43_transactions.md R217). -/
def hostXreg (a op : Byte) (reg16 : Half) (vh vl : Byte) : List HostStmt :=
  hostFrame a op (crcHi reg16) (crcLo reg16) vh vl ++ [hostCmd .regXact, hostPollDone]

/-- `XCOIL a, op, d0, d1` (30_encoding.md R101). -/
def hostXcoil (a op d0 d1 : Byte) : List HostStmt :=
  hostFrame a op d0 d1 0 0 ++ [hostCmd .coilXact, hostPollDone]

/-- The source's coil_transaction; parameter COIL_DATA_MAP is the argument `map`, by default the built one's free map
(43_transactions.md R217, log 23). -/
def hostCoilTransaction (a op : Byte) (reg16 : Half) (vh vl : Byte)
    (map : Half → Byte → Byte → Byte × Byte := Config.coilDataMap) : List HostStmt :=
  hostXcoil a op (map reg16 vh vl).1 (map reg16 vh vl).2

/-- The code REGISTRY gives a command name; none where it gives none (92_eei_decisions.md D33). -/
def commandCode (registry : List RegistryEntry) (name : String) : Option Byte :=
  registry.findSome? fun e =>
    match e with
    | .command n code => if n = name then some code else none
    | .register _ _   => none
    | .coil _ _       => none

/-- The number REGISTRY gives a register name; none where it gives none (92_eei_decisions.md D33). -/
def registerNumber (registry : List RegistryEntry) (name : String) : Option Half :=
  registry.findSome? fun e =>
    match e with
    | .command _ _    => none
    | .register n num => if n = name then some num else none
    | .coil _ _       => none

/-- The number REGISTRY gives a coil name; none where it gives none (92_eei_decisions.md D33). -/
def coilNumber (registry : List RegistryEntry) (name : String) : Option Half :=
  registry.findSome? fun e =>
    match e with
    | .command _ _  => none
    | .register _ _ => none
    | .coil n num   => if n = name then some num else none

/-- XREG with the command and the register named in REGISTRY (43_transactions.md R217, 92_eei_decisions.md D33). -/
def hostXregNamed (registry : List RegistryEntry) (a : Byte) (op reg : String) (vh vl : Byte) : Option (List HostStmt) :=
  match commandCode registry op, registerNumber registry reg with
  | some c, some r => some (hostXreg a c r vh vl)
  | _, _           => none

/-- A coil transaction with the command and the coil named in REGISTRY (43_transactions.md R217, 92_eei_decisions.md D33,
D26). -/
def hostCoilNamed (registry : List RegistryEntry) (a : Byte) (op coil : String) (vh vl : Byte)
    (map : Half → Byte → Byte → Byte × Byte := Config.coilDataMap) : Option (List HostStmt) :=
  match commandCode registry op, coilNumber registry coil with
  | some c, some r => some (hostCoilTransaction a c r vh vl map)
  | _, _           => none

/-- `CRC_BYTES b0, ..., bk` (30_encoding.md R101). -/
def hostCrcBytes (xs : List Byte) : List HostStmt := hostCmd .crcInit :: xs.map fun b => hostCmd (.crcFeed b)

end Sys2Proof.Machine
end

