-- ==== Sys2Proof/Tests/Slice0.lean ====
section
/-! SUPPORT. Tests of single commands and single steps. Expected values are those of spec/95_test_vectors.md (row names such
as G1 or X1 are its own) or of the examples in the rules; `T_CHAR_NS` = 1 ms, as that file takes it. -/

namespace Sys2Proof.Tests

-- One theorem after the other: with the proofs elaborated side by side the package as one text runs out of threads.
set_option Elab.async false

open Sys2Proof Sys2Proof.Machine

/-! Well-formed commands (30_encoding.md R100). -/

theorem test_wf_refuses_encode_length : (Instr.encode 1).wf = false ∧ (Instr.encode 5).wf = false := by decide

theorem test_wf_refuses_decode_length : (Instr.decode 5).wf = false ∧ (Instr.decode 9).wf = false := by decide

theorem test_wf_refuses_receive_count : (Instr.receive 0).wf = false ∧ (Instr.receive 9).wf = false := by decide

theorem test_wf_accepts_the_bounds :
    (Instr.encode 2).wf = true ∧ (Instr.encode 4).wf = true ∧ (Instr.decode 6).wf = true ∧ (Instr.decode 8).wf = true
      ∧ (Instr.receive 1).wf = true ∧ (Instr.receive 8).wf = true := by decide

/-! One word of each command, written out from the layout `000000000000nnnnbbbbbbbb0000oooo` (30_encoding.md R90, R91). -/

theorem test_decode_crcInit : decodeWord 0b00000000000000000000000000000001 = .ok .crcInit := rfl

theorem test_decode_crcFeed : decodeWord 0b00000000000000001010010100000010 = .ok (.crcFeed 0xA5) := rfl

theorem test_decode_encode : decodeWord 0b00000000000000100000000000000011 = .ok (.encode 2) := rfl

theorem test_decode_decode : decodeWord 0b00000000000001100000000000000100 = .ok (.decode 6) := rfl

theorem test_decode_validate : decodeWord 0b00000000000000000000000000000101 = .ok .validate := rfl

theorem test_decode_send : decodeWord 0b00000000000000000000000000000110 = .ok .send := rfl

theorem test_decode_receive : decodeWord 0b00000000000010000000000000000111 = .ok (.receive 8) := rfl

theorem test_decode_regXact : decodeWord 0b00000000000000000000000000001000 = .ok .regXact := rfl

theorem test_decode_coilXact : decodeWord 0b00000000000000000000000000001001 = .ok .coilXact := rfl

/-- K2, K3: the reserved OP values. -/
theorem test_decode_refuses_reserved_op :
    ∀ op ∈ [0x0, 0xA, 0xB, 0xC, 0xD, 0xE, 0xF], decodeWord (BitVec.ofNat 32 op) = .error .reservedOp := by decide

/-- G6, K11, K10, K4, K8, K9, F14, F15: one word for each other reason. -/
theorem test_decode_refuses_by_name :
    decodeWord 0x00000011 = .error .lowMustBeZero ∧ decodeWord 0x80000001 = .error .highMustBeZero
      ∧ decodeWord 0x00000106 = .error .byteOperand ∧ decodeWord 0x00020001 = .error .lengthOperand
      ∧ decodeWord 0x00000007 = .error .lengthRange ∧ decodeWord 0x00090007 = .error .lengthRange
      ∧ decodeWord 0x00010003 = .error .lengthRange ∧ decodeWord 0x00050003 = .error .lengthRange :=
  ⟨rfl, rfl, rfl, rfl, rfl, rfl, rfl, rfl⟩

theorem test_decodeTableWord : decodeTableWord 32 0x00080007 = some (.receive 8) ∧ decodeTableWord 32 0x0000000A = none :=
  ⟨rfl, rfl⟩

/-! A bench: the block after reset with its port open, one character lasting 1 ms. -/

/-- A time in ms, in ns. -/
def ms (n : Nat) : Nat := n * 1000000

/-- The state after reset with T_CHAR_NS = 1 ms and PORT_EN = 1. -/
def bench : State :=
  { State.reset with
    params :=
      { charNs := ms 1, timerSlackNs := 0, charFormat := CharFormat.default8N1, crcVariant := .modbus
        baud := 10000, fClkHz := 0, registry := [.command "read" 0x03, .register "setpoint" 0x0001] }
    block := { Block.reset with portEn := true } }

/-- The bench with another block and time. -/
def benchWith (b : Block) (now : Nat) : State := { bench with block := b, now := now }

/-- The outcome is a next state that passes p. -/
def answers (o : Host.Outcome State Fault Refusal) (p : State → Bool) : Bool :=
  match o with
  | .next t    => p t
  | .fault _   => false
  | .refused _ => false

/-- The outcome is this fault. -/
def faults (o : Host.Outcome State Fault Refusal) (f : Fault) : Bool :=
  match o with
  | .next _    => false
  | .fault g   => f == g
  | .refused _ => false

theorem answers_next {o : Host.Outcome State Fault Refusal} {p : State → Bool} (h : answers o p = true) :
    ∃ t, o = .next t ∧ p t = true := by
  cases o <;> simp_all [answers]

theorem faults_eq {o : Host.Outcome State Fault Refusal} {f : Fault} (h : faults o f = true) : o = .fault f := by
  cases o <;> simp_all [faults]

/-- The registers read as listed. -/
def shows (s : State) (rs : List (Reg × Word)) : Bool := rs.all fun x => s.view.readReg x.1 == x.2

/-- Eight bytes as a buffer. -/
def bytes (xs : List Byte) : Buf := bufOf fun k => xs.getD k 0

/-- TXF0 and TXF1 written from two words. -/
def withTxf (v0 v1 : Word) (b : Block) : Block := (b.writeTxf0 v0).writeTxf1 v1

/-- A block that has received these bytes. -/
def received (xs : List Byte) (b : Block) : Block := { b with rxbuf := bytes xs, rxcnt := BitVec.ofNat 4 xs.length }

/-- The bench with TXLEN = n: idle, port open. -/
def idleWith (n : BitVec 4) : State := bench.mapBlock (Block.setTxlen n)

/-- Idle, TXLEN = n, port closed. -/
def closedWith (n : BitVec 4) : State := (idleWith n).mapBlock fun b => { b with portEn := false }

/-- Reset held. -/
def heldReset : State := { bench with rstN := false, block := Block.reset }

/-- A SEND of the one byte 0x55 at a phase of its sequence, its deadline due now. -/
def sending (p : Phase) : State :=
  benchWith { Block.reset with portEn := true, op := .send, phase := p, txlen := 1, txbuf := bytes [0x55], tDead := ms 9 } (ms 9)

/-- A transaction whose drain ends now. -/
def draining (op : BusOp) (n : Nat) : State :=
  benchWith { (Block.reset.encodeIntoTxbuf .modbus n) with portEn := true, op := op, phase := .drain, tDead := ms 9 } (ms 9)

/-- The open window of RECEIVE 2 with one byte stored: opened at 1 ms, deadline at 101 ms. -/
def window (now : Nat) : State :=
  benchWith
    { received [0xAA] { Block.reset with portEn := true } with
      op := .receive, phase := .rxwait, rxN := 2, tOpen := ms 1, tDead := ms 101 } now

/-- The open window of a transaction that has received these bytes. -/
def reply (op : BusOp) (dataLen n : Nat) (xs : List Byte) (now : Nat) : State :=
  benchWith
    { received xs { (Block.reset.encodeIntoTxbuf .modbus dataLen) with portEn := true } with
      op := op, phase := .rxwait, rxN := n, tOpen := ms 1, tDead := ms 101 } now

/-- A state with its host program. -/
def hosting (s : State) (h : List HostStmt) : State := { s with env := { s.env with host := h } }

/-- A state with its bus script. -/
def hearing (s : State) (cs : List BusChar) : State := { s with env := { s.env with bus := cs } }

/-! The CRC generator and the codec. -/

/-- G1. -/
theorem test_crcInit :
    answers (exec .crcInit (bench.mapBlock (Block.setCrc 0x1234))) (fun t => shows t [(.crc, 0xFFFF), (.status, 0x42)]) = true := by
  decide +kernel

/-- G2. -/
theorem test_crcFeed_first : answers (exec (.crcFeed 0x01) bench) (fun t => shows t [(.crc, 0x807E), (.status, 0x42)]) = true := by
  decide +kernel

/-- G5: the second CRC byte leaves the residue 0. -/
theorem test_crcFeed_residue :
    answers (exec (.crcFeed 0x0A) (bench.mapBlock (Block.setCrc 0x000A))) (fun t => shows t [(.crc, 0x0000)]) = true := by
  decide +kernel

/-- F1. -/
theorem test_encode_4 :
    answers (exec (.encode 4) (bench.mapBlock (withTxf 0x00000301 0x00000100)))
      (fun t => shows t [(.txb0, 0x00000301), (.txb1, 0x0A840100), (.txlen, 8), (.crc, 0x0A84), (.status, 0x42)]) = true := by
  decide +kernel

/-- F13: the byte past the frame is 0, and D3 plays no part. -/
theorem test_encode_3 :
    answers (exec (.encode 3) (bench.mapBlock (withTxf 0x02010B0A 0x0000EE03)))
      (fun t => shows t [(.txb0, 0x02010B0A), (.txb1, 0x0084AE03), (.txlen, 7), (.crc, 0x84AE)]) = true := by
  decide +kernel

/-- The example of 41_codec.md R147. -/
theorem test_decode_7 :
    answers (exec (.decode 7) (bench.mapBlock (received [0x01, 0x03, 0x02, 0x00, 0x16, 0x39, 0x8A])))
      (fun t => shows t [(.rxf0, 0x00020301), (.rxf1, 0x8A390016), (.rxinfo, 3), (.status, 0x00007042)]) = true := by
  decide +kernel

/-- The same with RXCNT = 6: SHORT_READ, and a frame held before is cleared. -/
theorem test_decode_short :
    answers (exec (.decode 7)
        (bench.mapBlock fun b => { received [0x01, 0x03, 0x02, 0x00, 0x16, 0x39] b with dlen := 4, valid := true }))
      (fun t => shows t [(.rxf0, 0), (.rxf1, 0), (.rxinfo, 0), (.status, 0x00006046)]) = true := by
  decide +kernel

/-- A held frame `01 03 00 00 00 01` with received CRC c (rows V1 and V3). -/
def held (c : Half) (b : Block) : Block :=
  { b with rxf := { addr := 1, cmd := 3, d0 := 0, d1 := 0, d2 := 0, d3 := 1, crc := c }, dlen := 4 }

/-- V1. -/
theorem test_validate_ok :
    answers (exec .validate (bench.mapBlock (held 0x0A84))) (fun t => shows t [(.crc, 0x0A84), (.status, 0x62)]) = true := by
  decide +kernel

/-- V3: the frame is kept on a mismatch. -/
theorem test_validate_mismatch :
    answers (exec .validate (bench.mapBlock (held 0x0A85)))
      (fun t => shows t [(.crc, 0x0A84), (.status, 0x4A), (.rxinfo, 4), (.rxf1, 0x0A850100)]) = true := by
  decide +kernel

/-! The transport. -/

/-- T1, T5: SEND of 8 bytes accepted at 0. -/
theorem test_send :
    answers (exec .send (bench.mapBlock (Block.setTxlen 8)))
      (fun t => shows t [(.status, 0x00010001)] && t.block.tDead == ms 6) = true := by
  decide +kernel

/-- K5: the TXLEN check comes before the port check. -/
theorem test_send_txlen_first : answers (exec .send State.reset) (fun t => shows t [(.status, 0x52)]) = true := by decide

/-- R184: RECEIVE clears RXBUF and RXCNT and leaves `dir` high. -/
theorem test_receive :
    answers (exec (.receive 3) (bench.mapBlock (received [1, 2])))
      (fun t => shows t [(.status, 0x00040041), (.rxb0, 0)] && t.block.tDead == ms 100) = true := by
  decide +kernel

/-- K13: nothing is cleared while the port is closed. -/
theorem test_receive_closed :
    answers (exec (.receive 8) (State.reset.mapBlock (received [1, 2])))
      (fun t => shows t [(.status, 0x0000204E), (.rxb0, 0x0201)]) = true := by
  decide +kernel

/-- T1: the first and the last character, the drain and the completion, each as one Engine step. -/
theorem test_engine_send :
    let b : Block := { Block.reset with portEn := true, op := .send, txlen := 2, txbuf := bytes [0x11, 0x22] }
    answers (engineStep (benchWith { b with phase := .settle, tDead := ms 6 } (ms 6)))
        (fun t => t.block.phase == .shift && t.block.tDead == ms 7 && t.obs.txdTrace == [⟨0x11, ms 6, none⟩]) = true
      ∧ answers (engineStep (benchWith { b with phase := .shift, txIdx := 1, tDead := ms 8 } (ms 8)))
        (fun t => t.block.phase == .drain && t.block.tDead == ms 12 && t.obs.txdTrace == []) = true
      ∧ answers (engineStep (benchWith { b with phase := .drain, tDead := ms 12 } (ms 12)))
        (fun t => t.dir && shows t [(.status, 0x42)]) = true := by
  decide +kernel

/-- W2: BB, ending at 6 ms, is stored; CC, ending at the deadline of 10 ms, is dropped. -/
theorem test_receive_deadline :
    let b : Block := { received [0xAA] { Block.reset with portEn := true } with
      phase := .rxwait, op := .receive, rxN := 3, tRxto := 10000, tDead := ms 10 }
    answers (deliver (some 0xBB) (benchWith b (ms 6))) (fun t => shows t [(.status, 0x00042041), (.rxb0, 0xBBAA)]) = true
      ∧ answers (deliver (some 0xCC) (benchWith b (ms 10))) (fun t => shows t [(.status, 0x000410C1), (.rxb0, 0xAA)]) = true := by
  decide +kernel

/-- The levels of `txd` over the character 0x01 at 8N1: start bit, bit 0, bit 1, stop bit (R172). -/
theorem test_char_levels :
    (charLevel CharFormat.default8N1 (ms 1) 0x01 0 = false ∧ charLevel CharFormat.default8N1 (ms 1) 0x01 150000 = true)
      ∧ charLevel CharFormat.default8N1 (ms 1) 0x01 250000 = false
      ∧ charLevel CharFormat.default8N1 (ms 1) 0x01 950000 = true := by
  decide +kernel

/-! The transactions. -/

/-- The example of 43_transactions.md R210 at acceptance. -/
theorem test_regXact :
    answers (exec .regXact (bench.mapBlock (withTxf 0x00000301 0x00000100)))
      (fun t => shows t [(.status, 0x00010001), (.txb0, 0x00000301), (.txb1, 0x0A840100), (.txlen, 8), (.crc, 0x0A84)]) = true := by
  decide +kernel

/-- X1: the last of the 7 reply bytes ends at 27 ms. -/
theorem test_regXact_reply :
    answers (deliver (some 0x8A)
        (benchWith
          { received [0x01, 0x03, 0x02, 0x00, 0x16, 0x39] { Block.reset with portEn := true } with
            phase := .rxwait, op := .regXact, rxN := 7, tOpen := ms 18, tDead := ms 118 } (ms 27)))
      (fun t => shows t [(.status, 0x00007062), (.rxf0, 0x00020301), (.rxf1, 0x8A390016), (.rxinfo, 3), (.crc, 0x8A39)])
      = true := by
  decide +kernel

/-- The example of 43_transactions.md R213 at acceptance: D2 and D3 play no part. -/
theorem test_coilXact :
    answers (exec .coilXact (bench.mapBlock (withTxf 0x01010101 0x0000EEEE)))
      (fun t => shows t [(.status, 0x00010001), (.txb0, 0x01010101), (.txb1, 0x00004890), (.txlen, 6), (.crc, 0x4890)]) = true := by
  decide +kernel

/-- X10: CRC_MISMATCH discards the frame and keeps RXBUF. -/
theorem test_coilXact_corrupted :
    answers (deliver (some 0x49)
        (benchWith
          { received [0x01, 0x01, 0x01, 0x01, 0x90] { Block.reset with portEn := true } with
            phase := .rxwait, op := .coilXact, rxN := 6, tOpen := ms 16, tDead := ms 116 } (ms 22)))
      (fun t => shows t [(.status, 0x0000604A), (.rxf0, 0), (.rxinfo, 0), (.crc, 0x4890), (.rxb1, 0x00004990)]) = true := by
  decide +kernel

/-! The host port, reset and the interrupt. -/

/-- H1, H2. -/
theorem test_bus_error :
    faults (hostRead 0x04 2 bench) (.busError 0x04) = true ∧ faults (hostRead 0x06 4 bench) (.busError 0x06) = true := by
  decide +kernel

/-- H3, H4. -/
theorem test_reserved_and_cmd_read_zero :
    answers (hostRead 0x44 4 bench) (fun t => t.obs.reads == [0]) = true
      ∧ answers (hostWrite 0x80 4 0xFFFFFFFF bench) (fun t => t == bench) = true
      ∧ answers (hostRead 0x08 4 bench) (fun t => t.obs.reads == [0]) = true := by
  decide +kernel

/-- H5, H6, H7. -/
theorem test_masked_writes :
    answers (hostWrite 0x0C 4 0x1234 bench) (fun t => t == bench) = true
      ∧ answers (hostWrite 0x20 4 0xFFFFFFFF bench) (fun t => shows t [(.txlen, 0xF)]) = true
      ∧ answers (hostWrite 0x38 4 0xFFFFFFFF bench) (fun t => shows t [(.tSettle, 0x00FFFFFF)]) = true := by
  decide +kernel

/-- H8, H9, H10: W1C bits, and `irq` with DONE. -/
theorem test_w1c_and_irq :
    let s := bench.mapBlock fun b => { b with irqEn := true, done := true, rxDrop := true, busyWr := true, result := .noFrame }
    s.irq = true
      ∧ answers (hostWrite 0x04 4 0xFFFFFFFF s) (fun t => shows t [(.status, 0x54)] && !t.irq) = true
      ∧ answers (hostWrite 0x04 4 0x2 s) (fun t => shows t [(.status, 0x1D4)]) = true := by
  decide +kernel

/-- H11: a CTRL write while BUSY. -/
theorem test_ctrl_write_while_busy :
    answers (hostWrite 0x00 4 0x0 (bench.mapBlock fun b => { b with irqEn := true, phase := .drain, op := .send }))
      (fun t => shows t [(.ctrl, 0x1), (.status, 0x00030001)]) = true := by
  decide +kernel

/-- The bench in the middle of T1, at 10.5 ms, with `rst_n` going low. -/
def abortBench : State :=
  { benchWith
      { Block.reset with
        portEn := true, irqEn := true, op := .send, phase := .shift, txlen := 8, txIdx := 4, tDead := ms 11 } (ms 10 + 500000) with
    env := { bench.env with rst := [⟨ms 10 + 500000, false⟩] }
    obs := { bench.obs with txdTrace := [⟨0, ms 9, none⟩, ⟨0, ms 10, none⟩], dirTrace := [⟨0, false⟩] } }

/-- H12, H13. -/
theorem test_reset_in_shift :
    answers (step abortBench)
      (fun t => t.block == Block.reset && t.dir && t.txd && !t.irq && shows t [(.status, 0x40), (.crc, 0xFFFF), (.ctrl, 0)]
        && t.obs.txdTrace == [⟨0, ms 9, none⟩, ⟨0, ms 10, some (ms 10 + 500000)⟩]
        && t.obs.dirTrace == [⟨0, false⟩, ⟨ms 10 + 500000, true⟩] && t.obs.irqTrace == []) = true := by
  decide +kernel

/-! The step. -/

/-- K1 as the first step after reset, with the placed word. -/
theorem test_withFetchWord :
    answers (step (State.reset.withFetchWord 32 0x00000008)) (fun t => shows t [(.status, 0x4E)] && t.env.host == []) = true := by
  decide +kernel

/-- The Engine goes before the Host at one instant (00_scope.md R9): the read comes after the completion. -/
theorem test_engine_before_host :
    answers (step { benchWith { Block.reset with portEn := true, phase := .drain, op := .send, txlen := 1, tDead := ms 18 } (ms 18) with
        env := { bench.env with host := [hostRd .status] } })
      (fun t => t.obs.reads == [] && shows t [(.status, 0x42)] && t.env.host == [hostRd .status]) = true := by
  decide +kernel

/-- Time stops at the Engine's deadline (00_scope.md R9), although the host waits longer. -/
theorem test_time_stops_at_the_deadline :
    answers (step { benchWith { Block.reset with portEn := true, phase := .drain, op := .send, txlen := 1, tDead := ms 18 } (ms 15) with
        env := { bench.env with host := [.waitUntil (ms 30)] } })
      (fun t => t.now == ms 18) = true := by
  decide +kernel

/-- The end of a run: the state after reset, with no program placed (log 2). -/
theorem test_nothing_to_do : faults (step State.reset) .hostFinished = true := by decide

/-- XREG 01, 06, 0x0001, 00, 18 writes the operands of program P7 and then the command. -/
theorem test_xreg :
    hostXreg 0x01 0x06 0x0001 0x00 0x18
      = [.wr 0x10 4 0x01000601, .wr 0x14 4 0x00001800, .wr 0x08 4 0x00000008, .pollDone 0] := by decide

/-- A poll that finds DONE = 0 observes the read and reads again after its gap; one that finds DONE = 1 ends (R101). -/
theorem test_poll_loop :
    (let s := sending .settle
     answers (step { s with now := ms 8, env := { s.env with host := [hostPollDone], polls := [5] } })
       (fun t => t.obs.reads == [0x00010001] && t.env.host == [.pollDone (ms 8 + 5)] && t.env.polls == []) = true)
    ∧ answers (step (hosting (bench.mapBlock (Block.complete .ok)) [.pollDone (ms 30)]))
        (fun t => t.obs.reads == [0x42] && t.env.host == []) = true := by
  decide +kernel

/-- The opaque codes of REGISTRY reach TXF through the host's notation alone (R217, D33). -/
theorem test_registry :
    hostXregNamed bench.params.registry 0x01 "read" "setpoint" 0 1 = some (hostXreg 0x01 0x03 0x0001 0 1)
      ∧ hostXregNamed bench.params.registry 0x01 "read" "other" 0 1 = none := by
  decide +kernel

theorem test_baud : baudFits bench.params := by unfold baudFits; decide +kernel

/-! Witnesses: concrete states and operands that meet the hypotheses of each statement of
Certificates/Slice0/Obligations.lean, clause by clause, at the bounds of the ranges. -/

/-- No command is decoded from a word the decoder rejects. -/
theorem not_decoded {v : Word} {r : Reject} (h : decodeWord v = .error r) : ¬∃ i, decodeWord v = .ok i := by
  simp [h]

theorem witness_DecodeOfEncode : (Instr.encode 2).wf = true ∧ (Instr.receive 8).wf = true := by decide

theorem witness_EncodeOfDecode : decodeWord 0x0000FF02 = .ok (.crcFeed 0xFF) := rfl

theorem witness_LegalWordsAreTheAcceptedOnes :
    (∃ i, decodeWord 0x00080007 = .ok i) ∧ (¬∃ i, decodeWord 0x00090007 = .ok i)
      ∧ ((idleWith 0).ready = true ∧ ¬(1 ≤ (idleWith 0).block.txlen.toNat ∧ (idleWith 0).block.txlen.toNat ≤ 8))
      ∧ ((idleWith 9).ready = true ∧ ¬(1 ≤ (idleWith 9).block.txlen.toNat ∧ (idleWith 9).block.txlen.toNat ≤ 8)) :=
  ⟨⟨_, rfl⟩, not_decoded rfl, by decide, by decide⟩

theorem witness_CommandWriteCheckOrder :
    heldReset.rstN = false
      ∧ (bench.rstN = true ∧ ¬((2 : Nat) = 4 ∧ (0x04 : Offset).toNat % 4 = 0) ∧ ¬((4 : Nat) = 4 ∧ (0x06 : Offset).toNat % 4 = 0))
      ∧ ((sending .settle).rstN = true ∧ (sending .settle).block.busy = true)
      ∧ ((idleWith 9).ready = true ∧ ¬∃ i, decodeWord 0x0000000A = .ok i)
      ∧ ((idleWith 9).ready = true ∧ ¬(1 ≤ (idleWith 9).block.txlen.toNat ∧ (idleWith 9).block.txlen.toNat ≤ 8))
      ∧ ((closedWith 8).ready = true ∧ (∃ i, decodeWord 0x00000006 = .ok i) ∧ 6 ≤ ((0x00000006 : Word).extractLsb' 0 4).toNat
        ∧ (1 ≤ (closedWith 8).block.txlen.toNat ∧ (closedWith 8).block.txlen.toNat ≤ 8)
        ∧ (closedWith 8).block.portEn = false)
      ∧ ((idleWith 1).ready = true ∧ decodeWord 0x00000006 = .ok .send ∧ (Instr.receive 0).wf = false) :=
  ⟨by decide, by decide, by decide, ⟨by decide, not_decoded rfl⟩, by decide,
    ⟨by decide, ⟨_, rfl⟩, by decide, by decide, by decide⟩, ⟨by decide, rfl, by decide⟩⟩

theorem witness_IllegalCommandHasNoOtherEffect :
    (idleWith 9).Inv ∧ (idleWith 9).ready = true ∧ (¬∃ i, decodeWord 0x00000010 = .ok i)
      ∧ ¬(1 ≤ (idleWith 9).block.txlen.toNat ∧ (idleWith 9).block.txlen.toNat ≤ 8) :=
  ⟨State.inv_of_check (by decide +kernel), by decide, not_decoded rfl, by decide⟩

theorem witness_ClosedPortGivesTransportError :
    (closedWith 1).Inv ∧ (closedWith 1).ready = true ∧ (closedWith 1).block.portEn = false
      ∧ (1 ≤ (closedWith 1).block.txlen.toNat ∧ (closedWith 1).block.txlen.toNat ≤ 8)
      ∧ (1 ≤ (8 : BitVec 4).toNat ∧ (8 : BitVec 4).toNat ≤ 8) :=
  ⟨State.inv_of_check (by decide +kernel), by decide, by decide, by decide, by decide⟩

/-- C3 and a flip of its last bit. -/
theorem witness_CrcUpdateLaws : (7 : Nat) < 8 ∧ crc16 .modbus [0xFF] = 0x00FF ∧ crc16 .modbus [0xFF ^^^ BitVec.twoPow 8 7] ≠ 0x00FF := by
  decide +kernel

theorem witness_CrcInitRule :
    bench.ready = true ∧ ((sending .drain).rstN = true ∧ (sending .drain).block.busy = true)
      ∧ ((0x00000011 : Word).extractLsb' 0 4 = 1 ∧ (0x00000011 : Word) ≠ 0x00000001) := by
  decide

theorem witness_CrcFeedRule :
    bench.ready = true ∧ ((sending .drain).rstN = true ∧ (sending .drain).block.busy = true)
      ∧ ((0x00000012 : Word).extractLsb' 0 4 = 2 ∧ (0x00000012 : Word).extractLsb' 4 4 ≠ 0)
      ∧ ((0x00010002 : Word).extractLsb' 0 4 = 2 ∧ (0x00010002 : Word).extractLsb' 16 16 ≠ 0) := by
  decide

theorem witness_ShortInputNeverYieldsAFrame :
    ([1, 2, 3, 4, 5] : List Byte).length < 6 ∧ 6 ≤ ([1, 2, 3, 4, 5, 6] : List Byte).length := by
  decide

theorem witness_FrameRoundTrip :
    frameLenOk { addr := 1, cmd := 3, data := [0, 0], crc := 0x1234 } = true
      ∧ frameLenOk { addr := 1, cmd := 3, data := [0, 0, 0, 1], crc := 0x0A84 } = true
      ∧ 8 ≤ ([1, 2, 3, 4, 5, 6, 7, 8] : List Byte).length := by
  decide

theorem witness_CrcBitFlipIsDetected :
    let f : Frame := { addr := 1, cmd := 3, data := [0, 0, 0, 1], crc := 0x0A84 }
    frameLenOk f = true ∧ validateFrame .modbus f = true ∧ (1 : Nat) < 2 ∧ (7 : Nat) < 8 := by
  decide +kernel

theorem witness_EncodeRule :
    bench.ready = true ∧ (∀ n ∈ [(2 : BitVec 4), 3, 4], n = 2 ∨ n = 3 ∨ n = 4)
      ∧ ((0x00050003 : Word).extractLsb' 0 4 = 3 ∧ (0x00050003 : Word).extractLsb' 16 4 = 5) := by
  decide

/-- RXCNT = 1 is short for every length, and RXCNT = 6 is enough for L = 6 alone. -/
theorem witness_DecodeRule :
    (bench.ready = true ∧ bench.block.rxcnt.toNat < (6 : BitVec 4).toNat)
      ∧ (let s := bench.mapBlock (received [1, 2, 3, 4, 5, 6])
         s.ready = true ∧ (6 : BitVec 4).toNat ≤ s.block.rxcnt.toNat ∧ s.block.rxcnt.toNat < (7 : BitVec 4).toNat)
      ∧ ((0x00090004 : Word).extractLsb' 0 4 = 4 ∧ (0x00090004 : Word).extractLsb' 16 4 = 9) := by
  decide +kernel

/-- K6 is the first case, V1 the second, V3 the third. -/
theorem witness_ValidateRule :
    (bench.ready = true ∧ bench.block.dlen = 0)
      ∧ (let s := bench.mapBlock (held 0x0A84)
         s.ready = true ∧ s.block.dlen ≠ 0 ∧ crc16 .modbus [1, 3, 0, 0, 0, 1] = s.block.rxf.crc)
      ∧ (let s := bench.mapBlock (held 0x0A85)
         s.ready = true ∧ s.block.dlen ≠ 0 ∧ crc16 .modbus [1, 3, 0, 0, 0, 1] ≠ s.block.rxf.crc) := by
  decide +kernel

theorem witness_SendStartsSettle :
    ∀ n ∈ [(1 : BitVec 4), 8], (idleWith n).ready = true ∧ 1 ≤ (idleWith n).block.txlen.toNat
      ∧ (idleWith n).block.txlen.toNat ≤ 8 ∧ (idleWith n).block.portEn = true := by
  decide

theorem witness_ReceiveOpensWindow :
    bench.ready = true ∧ bench.block.portEn = true ∧ ∀ n ∈ [(1 : BitVec 4), 8], 1 ≤ n.toNat ∧ n.toNat ≤ 8 := by
  decide

/-- One state for each of the five clauses; the second and third meet at TXLEN = 2. -/
theorem witness_EngineSendSteps :
    (sending .settle).rstN = true ∧ (sending .settle).block.phase = .settle
      ∧ (let s := (sending .shift).mapBlock (Block.setTxlen 2)
         s.rstN = true ∧ s.block.phase = .shift ∧ s.block.txIdx + 1 < s.block.txlen.toNat)
      ∧ (let s := (sending .shift).mapBlock fun b => (b.setTxlen 2).setTxIdx 1
         s.rstN = true ∧ s.block.phase = .shift ∧ s.block.txlen.toNat ≤ s.block.txIdx + 1)
      ∧ ((sending .drain).block.phase = .drain ∧ (sending .drain).block.op = .send)
      ∧ ((draining .regXact 4).block.phase = .drain ∧ (draining .regXact 4).block.op = .regXact)
      ∧ ((draining .coilXact 2).block.phase = .drain ∧ (draining .coilXact 2).block.op = .coilXact) := by
  decide

/-- The first instant that fits, and the deadline, where none fits any more. -/
theorem witness_ReceivedCharacterRule :
    (let s := window (ms 2)
     s.Inv ∧ s.rstN = true
       ∧ (s.block.phase = .rxwait ∧ s.block.tOpen + s.params.charNs ≤ s.now ∧ s.now < s.block.tDead)
       ∧ s.block.rxcnt.toNat + 1 = s.block.rxN)
    ∧ (let s := reply .coilXact 2 6 [1, 2] (ms 100)
       s.Inv ∧ s.rstN = true
         ∧ (s.block.phase = .rxwait ∧ s.block.tOpen + s.params.charNs ≤ s.now ∧ s.now < s.block.tDead)
         ∧ s.block.rxcnt.toNat + 1 ≠ s.block.rxN)
    ∧ (let s := window (ms 101)
       s.Inv ∧ s.rstN = true
         ∧ ¬(s.block.phase = .rxwait ∧ s.block.tOpen + s.params.charNs ≤ s.now ∧ s.now < s.block.tDead)) :=
  ⟨⟨State.inv_of_check (by decide +kernel), by decide +kernel⟩, ⟨State.inv_of_check (by decide +kernel), by decide +kernel⟩,
    State.inv_of_check (by decide +kernel), by decide +kernel⟩

theorem witness_ErroneousCharacterIsReceived : (window (ms 2)).rstN = true := by decide

/-- At its deadline the window closes; before it, time passes and the window stays. -/
theorem witness_WindowClosesOnTimeout :
    (let s := window (ms 101)
     s.Inv ∧ s.block.phase = .rxwait ∧ s.params.timerSlackNs = 0 ∧ s.now = s.block.tDead ∧ s.resetDue = false ∧ ∃ t, step s = .next t)
    ∧ (let s := window (ms 2)
       s.Inv ∧ s.block.phase = .rxwait ∧ ∃ t, step s = .next t ∧ (t.block.phase == .rxwait) = true) :=
  ⟨⟨State.inv_of_check (by decide +kernel), by decide +kernel, rfl, by decide +kernel, by decide +kernel,
      let ⟨t, h, _⟩ := answers_next (p := fun _ => true) (by decide +kernel : answers (step (window (ms 101))) _ = true)
      ⟨t, h⟩⟩,
    State.inv_of_check (by decide +kernel), by decide +kernel, answers_next (by decide +kernel)⟩

/-- The timeout of a RECEIVE, and DECODE with too few bytes. -/
theorem witness_ReceiveAlwaysCompletesOk :
    (let s := window (ms 101)
     s.Inv ∧ s.block.op = .receive ∧ ∃ t, step s = .next t ∧ (!t.block.busy && t.rstN) = true)
    ∧ (let s := hosting bench [hostCmd (.decode 6)]
       s.Inv ∧ s.block.result ≠ .shortRead ∧ ∃ t, step s = .next t ∧ (t.block.result == .shortRead) = true) :=
  ⟨⟨State.inv_of_check (by decide +kernel), by decide +kernel, answers_next (by decide +kernel)⟩,
    State.inv_of_check (by decide +kernel), by decide +kernel, answers_next (by decide +kernel)⟩

theorem witness_RegXactStartsSettle : bench.ready = true ∧ bench.block.portEn = true := by decide

theorem witness_CoilXactStartsSettle : (idleWith 9).ready = true ∧ (idleWith 9).block.portEn = true := by decide

/-- Does the CRC of the received bytes equal the received CRC? -/
def crcAgrees (s : State) : Bool :=
  crc16 .modbus ((List.range (s.block.rxN - 2)).map (bufGet s.block.rxbuf))
    == (bufGet s.block.rxbuf (s.block.rxN - 1) ++ bufGet s.block.rxbuf (s.block.rxN - 2) : Half)

/-- The three cases for each transaction: one byte short (X2), a good reply (X1, X9), a corrupted one (X10). -/
theorem witness_TransactionCheckRule :
    (let s := reply .regXact 4 7 [0x01, 0x03, 0x02, 0x00, 0x16, 0x39] (ms 101)
     s.block.op = .regXact ∧ s.block.rxN = 7 ∧ s.block.rxcnt.toNat < s.block.rxN)
    ∧ (let s := reply .regXact 4 7 [0x01, 0x03, 0x02, 0x00, 0x16, 0x39, 0x8A] (ms 27)
       s.block.op = .regXact ∧ s.block.rxN = 7 ∧ s.block.rxN ≤ s.block.rxcnt.toNat ∧ crcAgrees s = true)
    ∧ (let s := reply .coilXact 2 6 [0x01, 0x01, 0x01, 0x01, 0x90] (ms 101)
       s.block.op = .coilXact ∧ s.block.rxN = 6 ∧ s.block.rxcnt.toNat < s.block.rxN)
    ∧ (let s := reply .coilXact 2 6 [0x01, 0x01, 0x01, 0x01, 0x90, 0x48] (ms 22)
       s.block.op = .coilXact ∧ s.block.rxN = 6 ∧ s.block.rxN ≤ s.block.rxcnt.toNat ∧ crcAgrees s = true)
    ∧ (let s := reply .coilXact 2 6 [0x01, 0x01, 0x01, 0x01, 0x90, 0x49] (ms 22)
       s.block.op = .coilXact ∧ s.block.rxN = 6 ∧ s.block.rxN ≤ s.block.rxcnt.toNat ∧ crcAgrees s = false) := by
  decide +kernel

/-- X1 ends with a frame, X3 without one, and a closed port stops a transaction. -/
theorem witness_TransactionResultIsNeverPartial :
    (let s := hearing (reply .regXact 4 7 [0x01, 0x03, 0x02, 0x00, 0x16, 0x39] (ms 27)) [⟨ms 27, some 0x8A⟩]
     s.Inv ∧ s.block.op = .regXact ∧ ∃ t, step s = .next t ∧ (!t.block.busy && t.rstN && t.block.result == .ok) = true)
    ∧ (let s := reply .coilXact 2 6 [] (ms 101)
       s.Inv ∧ s.block.op = .coilXact ∧ ∃ t, step s = .next t ∧ (!t.block.busy && t.rstN && t.block.result == .shortRead) = true)
    ∧ ((closedWith 1).Inv ∧ (closedWith 1).ready = true ∧ (closedWith 1).block.portEn = false) :=
  ⟨⟨State.inv_of_check (by decide +kernel), by decide +kernel, answers_next (by decide +kernel)⟩,
    ⟨State.inv_of_check (by decide +kernel), by decide +kernel, answers_next (by decide +kernel)⟩,
    State.inv_of_check (by decide +kernel), by decide, by decide⟩

theorem witness_OddAccessesAreBusErrors :
    ¬((2 : Nat) = 4 ∧ (0x04 : Offset).toNat % 4 = 0) ∧ ¬((4 : Nat) = 4 ∧ (0x06 : Offset).toNat % 4 = 0)
      ∧ (bench.rstN = true ∧ heldReset.rstN = false) ∧ (0xFC : Offset).toNat % 4 = 0 := by
  decide

theorem witness_ReservedOffsetsReadZero :
    ∀ off ∈ [(0x44 : Offset), 0xFC], off.toNat % 4 = 0 ∧ 0x44 ≤ off.toNat := by decide

theorem witness_WriteThenReadBack : bench.ready = true ∧ Reg.tRxto ≠ .cmd := by decide

/-- BUSY, with a host write of TXLEN next. -/
theorem witness_BusyWritesAreIgnored :
    let s := { hosting (sending .settle) [hostWr .txlen 5] with now := ms 8 }
    s.rstN = true ∧ s.block.busy = true ∧ ∃ t, step s = .next t ∧ (t.rstN && t.block.busyWr) = true :=
  ⟨by decide, by decide, answers_next (by decide +kernel)⟩

theorem witness_BusyExactlyWhenNotIdle : bench.block.phase = .idle ∧ ∃ t, exec (.encode 4) bench = .next t :=
  ⟨rfl, _, rfl⟩

/-- Every command in the accepted case and in the BUSY case answers a next state. -/
theorem witness_CommandFrame :
    (∀ i, ∃ t, exec i bench = .next t) ∧ bench.block.busy = false
      ∧ (∀ i, ∃ t, exec i (sending .shift) = .next t) ∧ (sending .shift).block.busy = true :=
  ⟨fun i => exec_answers_next i _, rfl, fun i => exec_answers_next i _, rfl⟩

theorem witness_ResetGivesResetValues :
    abortBench.env.rst = [⟨ms 10 + 500000, false⟩] ∧ ms 10 + 500000 ≤ abortBench.now ∧ heldReset.rstN = false := by
  decide

/-- In SHIFT before the end of the character; in the settle; and a completion by the Engine. -/
theorem witness_ResetAbortsTheCommand :
    (abortBench.env.rst = [⟨ms 10 + 500000, false⟩] ∧ ms 10 + 500000 ≤ abortBench.now ∧ abortBench.rstN = true
        ∧ abortBench.block.busy = true ∧ abortBench.block.phase = .shift ∧ abortBench.now < abortBench.block.tDead
        ∧ abortBench.obs.txdTrace = [⟨0, ms 9, none⟩] ++ [⟨0, ms 10, none⟩])
      ∧ (let s := { sending .settle with env := { bench.env with rst := [⟨ms 9, false⟩] } }
         ms 9 ≤ s.now ∧ s.rstN = true ∧ s.block.busy = true ∧ s.block.phase ≠ .shift)
      ∧ ∃ t, step (sending .drain) = .next t ∧ (!t.block.busy) = true :=
  ⟨by decide, by decide, answers_next (by decide +kernel)⟩

theorem witness_HeldResetIgnoresEverything : heldReset.rstN = false := rfl

theorem witness_StepRunsTheDecodedCommand :
    let s := hosting (idleWith 8) [hostCmd .send]
    s.env.host = [.wr 0x08 4 0x00000006] ∧ decodeWord 0x00000006 = .ok .send ∧ s.rstN = true ∧ s.resetDue = false
      ∧ s.engineDue = false ∧ s.busDue = false :=
  ⟨rfl, rfl, rfl, rfl, rfl, rfl⟩

/-- An Engine step due while a character and a host access wait; a character alone; and one that goes before a ready
access. -/
theorem witness_StepTakesTheDueAgent :
    (let s := hearing (hosting (sending .drain) [hostRd .crc]) [⟨ms 9, some 0x11⟩]
     s.resetDue = false ∧ s.engineDue = true)
    ∧ (let s := hearing (window (ms 2)) [⟨ms 2, some 0x11⟩]
       s.resetDue = false ∧ s.engineDue = false ∧ s.hostReady = false)
    ∧ (let s := hosting (hearing (window (ms 2)) [⟨ms 2, some 0x11⟩]) [hostRd .crc]
       s.resetDue = false ∧ s.engineDue = false ∧ s.hostReady = true ∧ s.env.ties.head? ≠ some .host) := by
  decide +kernel

/-- An odd read with no character due, an illegal word that goes before a character, AT, and both turns of a poll. -/
theorem witness_StepRunsTheHostStatement :
    (let s := hosting bench [.rd 0x06 4]
     s.resetDue = false ∧ s.engineDue = false ∧ s.busDue = false)
    ∧ (let s := hearing (hosting (window (ms 2)) [.wr 0x08 4 0x0000000A]) [⟨ms 2, some 0x11⟩]
       let u : State := { s with env := { s.env with ties := [.host] } }
       u.resetDue = false ∧ u.engineDue = false ∧ u.busDue = true ∧ u.env.ties.head? = some .host)
    ∧ (let s := hosting bench [.waitUntil 0]
       s.resetDue = false ∧ s.engineDue = false ∧ s.busDue = false ∧ 0 ≤ s.now)
    ∧ (let s := hosting (bench.mapBlock (Block.complete .ok)) [.pollDone (ms 30)]
       s.resetDue = false ∧ s.engineDue = false ∧ s.busDue = false ∧ s.view.done = true)
    ∧ (let s := hosting { sending .settle with now := ms 8 } [.pollDone (ms 8)]
       s.resetDue = false ∧ s.engineDue = false ∧ s.busDue = false ∧ s.view.done = false ∧ ms 8 ≤ s.now) := by
  decide +kernel

/-- Two phases, held reset, and a character that starts now. -/
theorem witness_TxdRestsOutsideShift :
    (sending .drain).block.phase ≠ .shift ∧ (window (ms 2)).block.phase ≠ .shift ∧ heldReset.rstN = false
      ∧ (let s := { sending .shift with now := ms 8 }
         s.rstN = true ∧ s.block.phase = .shift ∧ s.params.charFormat = CharFormat.default8N1 ∧ 0 < s.params.charNs
           ∧ s.now + s.params.charNs = s.block.tDead) := by
  decide +kernel

theorem witness_StepKeepsInvariant :
    (sending .settle).Inv ∧ ∃ t, step (sending .settle) = .next t ∧ (t.block.phase == .shift) = true :=
  ⟨State.inv_of_check (by decide +kernel), answers_next (by decide +kernel)⟩

/-- A step in which `dir` falls. -/
theorem witness_StepKeepsTraces :
    let s := hosting (idleWith 8) [hostCmd .send]
    s.TracesFit ∧ ∃ t, step s = .next t ∧ (t.obs.dirTrace == [⟨0, false⟩]) = true :=
  ⟨⟨rfl, rfl⟩, answers_next (by decide +kernel)⟩

/-- A step of Time to a deadline, a step of the Bus, and a step of the Host. -/
theorem witness_TimeRespectsDeadlines :
    (let s := { sending .drain with now := ms 5 }
     s.Inv ∧ s.block.busy = true ∧ ∃ t, step s = .next t ∧ (t.now == ms 9) = true)
    ∧ (let s := hearing (window (ms 2)) [⟨ms 2, some 0x11⟩]
       s.Inv ∧ ∃ t, step s = .next t ∧ (t.env.bus == []) = true)
    ∧ (let s := hosting bench [hostRd .crc]
       s.Inv ∧ ∃ t, step s = .next t ∧ (t.env.host == []) = true) :=
  ⟨⟨State.inv_of_check (by decide +kernel), by decide +kernel, answers_next (by decide +kernel)⟩,
    ⟨State.inv_of_check (by decide +kernel), answers_next (by decide +kernel)⟩,
    State.inv_of_check (by decide +kernel), answers_next (by decide +kernel)⟩

/-- One state for each way the machine stops. -/
theorem witness_MachineStopsOnlyAsTheSpecSays :
    (let s := hosting bench [.rd 0x06 4]
     s.Inv ∧ step s = .fault (.busError 0x06))
    ∧ (bench.Inv ∧ step bench = .fault .hostFinished) :=
  ⟨⟨State.inv_of_check (by decide +kernel), faults_eq (by decide +kernel)⟩,
    State.inv_of_check (by decide +kernel), faults_eq (by decide +kernel)⟩

/-- A read, and a reset that marks the last character of the `txd` trace. -/
theorem witness_ObservationOnlyGrows :
    (∃ t, step (hosting bench [hostRd .crc]) = .next t ∧ (t.obs.reads == [0xFFFF]) = true)
      ∧ ∃ t, step abortBench = .next t ∧ (t.obs.txdTrace != abortBench.obs.txdTrace) = true :=
  ⟨answers_next (by decide +kernel), answers_next (by decide +kernel)⟩

/-- `dir` falls at the acceptance of a SEND and rises at the end of its drain. -/
theorem witness_DirectionLineRule :
    (let s := hosting (idleWith 8) [hostCmd .send]
     s.Inv ∧ s.dir = true ∧ ∃ t, step s = .next t ∧ (!t.dir) = true)
    ∧ ((sending .drain).Inv ∧ (sending .drain).dir = false ∧ ∃ t, step (sending .drain) = .next t ∧ t.dir = true) :=
  ⟨⟨State.inv_of_check (by decide +kernel), by decide +kernel, answers_next (by decide +kernel)⟩,
    State.inv_of_check (by decide +kernel), by decide +kernel, answers_next (by decide +kernel)⟩

theorem witness_OnlyTheHostStartsABusCommand :
    let s := hosting bench [hostCmd (.receive 8)]
    s.block.busy = false ∧ ∃ t, step s = .next t ∧ t.block.busy = true :=
  ⟨rfl, answers_next (by decide +kernel)⟩

/-- A window opens, a character is stored, and reset clears the buffer. -/
theorem witness_RxbufChangesOnlyThroughAWindow :
    (∃ t, step (hosting (bench.mapBlock (received [1])) [hostCmd (.receive 8)]) = .next t ∧ (t.block.rxcnt == 0) = true)
    ∧ (∃ t, step (hearing (window (ms 2)) [⟨ms 2, some 0x11⟩]) = .next t ∧ (t.block.rxcnt == 2) = true)
    ∧ ∃ t, step { window (ms 2) with env := { bench.env with rst := [⟨ms 2, false⟩] } } = .next t
        ∧ (t.block.rxcnt == 0 && !t.rstN) = true :=
  ⟨answers_next (by decide +kernel), answers_next (by decide +kernel), answers_next (by decide +kernel)⟩

/-- BUSY; no window, and a window at its deadline; and a step in which both flags fall. -/
theorem witness_StickyFlagsStay :
    ((sending .settle).rstN = true ∧ (sending .settle).block.busy = true ∧ (sending .settle).block.phase ≠ .rxwait)
    ∧ ((window (ms 101)).rstN = true ∧ ¬((window (ms 101)).now < (window (ms 101)).block.tDead))
    ∧ (let s := hosting (bench.mapBlock fun b => { b with busyWr := true, rxDrop := true }) [hostWr .status 0x180]
       s.block.busyWr = true ∧ s.block.rxDrop = true
         ∧ ∃ t, step s = .next t ∧ (!t.block.busyWr && !t.block.rxDrop) = true) :=
  ⟨by decide, by decide, rfl, rfl, answers_next (by decide +kernel)⟩

/-- DONE falls by the acknowledgement and by the next command, and rises at a completion. -/
theorem witness_CompletionIsAcknowledged :
    bench.rstN = true
    ∧ (∃ t, step (hosting (bench.mapBlock (Block.complete .ok)) [hostWr .status 0x2]) = .next t ∧ (!t.block.done) = true)
    ∧ (∃ t, step (hosting (bench.mapBlock (Block.complete .ok)) [hostCmd (.receive 1)]) = .next t ∧ (!t.block.done) = true)
    ∧ ((sending .drain).block.done = false ∧ ∃ t, step (sending .drain) = .next t ∧ t.block.done = true) :=
  ⟨rfl, answers_next (by decide +kernel), answers_next (by decide +kernel), rfl, answers_next (by decide +kernel)⟩

theorem witness_AcceptedCommandBound :
    bench.ready = true ∧ (∃ t, exec .regXact bench = .next t ∧ t.block.busy = true) ∧ bench.Inv ∧ bench.quiet :=
  ⟨rfl, answers_next (by decide +kernel), State.inv_of_check (by decide +kernel), rfl, rfl, rfl⟩

theorem witness_NothingExtendsARunningCommand :
    let s := hosting { sending .settle with now := ms 8 } [hostWr .tDrain 0xFFFFFF]
    s.Inv ∧ s.block.busy = true ∧ ∃ t, step s = .next t ∧ t.block.busy = true :=
  ⟨State.inv_of_check (by decide +kernel), rfl, answers_next (by decide +kernel)⟩

theorem witness_RunningCommandCompletes :
    (sending .settle).Inv ∧ (sending .settle).block.busy = true ∧ (sending .settle).quiet :=
  ⟨State.inv_of_check (by decide +kernel), rfl, rfl, rfl, rfl⟩

theorem witness_SendTakesExactly :
    let s := idleWith 8
    s.ready = true ∧ s.block.portEn = true ∧ 1 ≤ s.block.txlen.toNat ∧ s.block.txlen.toNat ≤ 8 ∧ s.quiet
      ∧ s.params.timerSlackNs = 0 ∧ ∃ u, exec .send s = .next u :=
  ⟨rfl, rfl, by decide, by decide, ⟨rfl, rfl, rfl⟩, rfl, _, rfl⟩

end Sys2Proof.Tests
end

section
/-! What the operations of the block leave alone: each changes the block, the draws and the `txd` trace, and nothing else of
the machine (00_scope.md R8). -/

namespace Sys2Proof.Machine

/-- t differs from s only as an operation of the block at one instant makes it differ: the parameters, the reset input,
the time and the scripts are the same, draws are used up, and characters are added to the `txd` trace (00_scope.md R11). -/
structure State.OutsideKept (s t : State) : Prop where
  params : t.params = s.params
  rstN   : t.rstN = s.rstN
  now    : t.now = s.now
  env    : t.env = s.env
  draws  : s.draws ≤ t.draws
  obs    : ∃ sent, t.obs = { s.obs with txdTrace := s.obs.txdTrace ++ sent }

theorem State.OutsideKept.trans {s t u : State} (h : s.OutsideKept t) (k : t.OutsideKept u) : s.OutsideKept u := by
  obtain ⟨sent, hobs⟩ := h.obs
  obtain ⟨more, kobs⟩ := k.obs
  exact ⟨k.params.trans h.params, k.rstN.trans h.rstN, k.now.trans h.now, k.env.trans h.env, h.draws.trans k.draws,
    sent ++ more, by simp [kobs, hobs]⟩

theorem State.mapBlock_keeps_outside (f : Block → Block) (s : State) : s.OutsideKept (s.mapBlock f) :=
  ⟨rfl, rfl, rfl, rfl, le_rfl, [], by simp⟩

theorem State.startPhase_keeps_outside (p : Phase) (us : BitVec 24) (s : State) : s.OutsideKept (s.startPhase p us) :=
  ⟨rfl, rfl, rfl, rfl, Nat.le_succ _, [], by simp⟩

theorem State.emitChar_keeps_outside (b : Byte) (s : State) : s.OutsideKept (s.emitChar b) :=
  ⟨rfl, rfl, rfl, rfl, le_rfl, _, rfl⟩

theorem State.draw_keeps_outside (s : State) : s.OutsideKept { s with draws := s.draws + 1 } :=
  ⟨rfl, rfl, rfl, rfl, Nat.le_succ _, [], by simp⟩

theorem State.OutsideKept.refl (s : State) : s.OutsideKept s := s.mapBlock_keeps_outside id

/-! Commands and host writes. -/

theorem beginSend_keeps_outside (op : BusOp) (s : State) : s.OutsideKept (beginSend op s) :=
  (s.mapBlock_keeps_outside _).trans (State.startPhase_keeps_outside _ _ _)

theorem openRx_keeps_outside (n : Nat) (s : State) : s.OutsideKept (openRx n s) :=
  (s.mapBlock_keeps_outside _).trans (State.startPhase_keeps_outside _ _ _)

theorem withPort_keeps_outside {f : State → State} {s : State} (hf : s.OutsideKept (f s)) :
    s.OutsideKept (withPort f s) := by
  unfold withPort
  split
  · exact hf
  · exact s.mapBlock_keeps_outside _

theorem command_keeps_outside (l : Bool) {f : State → State} (hf : ∀ u : State, u.OutsideKept (f u)) (s : State) :
    s.OutsideKept (command l f s) := by
  obtain ⟨-, h⟩ | ⟨-, -, h⟩ | ⟨-, -, h⟩ | ⟨-, -, h⟩ := command_cases l f s <;> rw [h]
  · exact .refl s
  · exact s.mapBlock_keeps_outside _
  · exact s.mapBlock_keeps_outside _
  · exact (s.mapBlock_keeps_outside _).trans (hf _)

theorem immediate_keeps_outside (l : Bool) (f : Block → Block) (s : State) : s.OutsideKept (immediate l f s) :=
  command_keeps_outside l (State.mapBlock_keeps_outside f) s

theorem doSend_keeps_outside (s : State) : s.OutsideKept (doSend s) := by
  unfold doSend
  split
  · exact withPort_keeps_outside (beginSend_keeps_outside _ s)
  · exact s.mapBlock_keeps_outside _

theorem doReceive_keeps_outside (n : Nat) (s : State) : s.OutsideKept (doReceive n s) :=
  withPort_keeps_outside ((s.mapBlock_keeps_outside _).trans (openRx_keeps_outside n _))

theorem doTransaction_keeps_outside (op : BusOp) (n : Nat) (s : State) : s.OutsideKept (doTransaction op n s) :=
  withPort_keeps_outside ((s.mapBlock_keeps_outside _).trans (beginSend_keeps_outside op _))

/-- No command touches anything but the block, the draws and the `txd` trace (30_encoding.md R95). -/
theorem exec_keeps_outside {i : Instr} {s t : State} (h : exec i s = .next t) : s.OutsideKept t := by
  cases i <;> cases h
  case crcInit => exact immediate_keeps_outside _ _ s
  case crcFeed => exact immediate_keeps_outside _ _ s
  case encode => exact immediate_keeps_outside _ _ s
  case decode => exact immediate_keeps_outside _ _ s
  case validate => exact immediate_keeps_outside _ _ s
  case send => exact command_keeps_outside _ doSend_keeps_outside s
  case receive n => exact command_keeps_outside _ (doReceive_keeps_outside n.toNat) s
  case regXact => exact command_keeps_outside _ (doTransaction_keeps_outside .regXact 4) s
  case coilXact => exact command_keeps_outside _ (doTransaction_keeps_outside .coilXact 2) s

/-- Everything `command_write` can do: the word's command, or the acceptance of an illegal word (30_encoding.md R95). -/
theorem commandWrite_next {v : Word} {s t : State} (h : commandWrite v s = .next t) :
    (∃ i, decodeWord v = .ok i ∧ exec i s = .next t) ∨ t = command false id s := by
  unfold commandWrite at h
  split at h
  · exact .inl ⟨_, by assumption, h⟩
  · cases h; exact .inr rfl

/-- Everything a host write can do: nothing, a command, or a register write (20_memory.md R61 to R65). -/
theorem hostWrite_next {off : Offset} {size : Nat} {v : Word} {s t : State} (h : hostWrite off size v s = .next t) :
    t = s ∨ (s.rstN = true ∧ regAt off = some .cmd ∧ commandWrite v s = .next t)
      ∨ (s.rstN = true ∧ ∃ r, r ≠ .cmd ∧ regAt off = some r ∧ t = s.mapBlock fun b => b.writeReg r v) := by
  unfold hostWrite at h
  split at h
  · cases h; exact .inl rfl
  · split at h
    · obtain ⟨rfl, -⟩ | hcmd | hreg := writeOffset_next h
      · exact .inl rfl
      · exact .inr (.inl hcmd)
      · exact .inr (.inr hreg)
    · cases h

theorem hostWrite_keeps_outside {off : Offset} {size : Nat} {v : Word} {s t : State}
    (h : hostWrite off size v s = .next t) : s.OutsideKept t := by
  obtain rfl | ⟨-, -, hc⟩ | ⟨-, r, -, -, rfl⟩ := hostWrite_next h
  · exact .refl _
  · obtain ⟨i, -, he⟩ | rfl := commandWrite_next hc
    · exact exec_keeps_outside he
    · exact command_keeps_outside _ .refl s
  · exact s.mapBlock_keeps_outside _

/-- Everything a host statement can do: a write, the read of a value, a turn of POLL_DONE that goes round, or nothing
(30_encoding.md R101). -/
theorem hostStmt_next {c : HostStmt} {s t : State} (h : hostStmt c s = .next t) :
    (∃ off size v, c = .wr off size v ∧ hostWrite off size v s = .next t)
      ∨ (∃ x, t = s.observe x) ∨ (∃ x, t = (s.observe x).pollAgain) ∨ t = s := by
  cases c with
  | rd off size =>
    simp only [hostStmt, hostRead] at h
    split at h <;> cases h
    exact .inr (.inl ⟨_, rfl⟩)
  | wr off size v => exact .inl ⟨off, size, v, rfl, h⟩
  | waitUntil t => cases h; exact .inr (.inr (.inr rfl))
  | pollDone next =>
    simp only [hostStmt, hostPoll_eq] at h
    split at h <;> cases h
    · exact .inr (.inl ⟨_, rfl⟩)
    · exact .inr (.inr (.inl ⟨_, rfl⟩))

/-! The Engine and the Bus. -/

theorem shiftOut_keeps_outside (k : Nat) (s : State) : s.OutsideKept (shiftOut k s) :=
  (s.emitChar_keeps_outside _).trans (State.mapBlock_keeps_outside _ _)

theorem endChar_keeps_outside (s : State) : s.OutsideKept (endChar s) := by
  unfold endChar
  split
  · exact shiftOut_keeps_outside _ s
  · exact (s.mapBlock_keeps_outside _).trans (State.startPhase_keeps_outside _ _ _)

theorem closeRx_keeps_outside {s t : State} (h : closeRx s = .next t) : s.OutsideKept t := by
  obtain ⟨-, rfl⟩ | ⟨-, rfl⟩ := closeRx_next h
  · exact s.mapBlock_keeps_outside _
  · exact s.mapBlock_keeps_outside _

theorem endDrain_keeps_outside {s t : State} (h : endDrain s = .next t) : s.OutsideKept t := by
  obtain ⟨-, rfl⟩ | ⟨-, rfl⟩ | ⟨-, rfl⟩ := endDrain_next h
  · exact s.mapBlock_keeps_outside _
  · exact openRx_keeps_outside 7 s
  · exact openRx_keeps_outside 6 s

theorem engineStep_keeps_outside {s t : State} (h : engineStep s = .next t) : s.OutsideKept t := by
  obtain ⟨-, rfl⟩ | ⟨-, rfl⟩ | ⟨-, hd⟩ | ⟨-, hc⟩ := engineStep_next h
  · exact shiftOut_keeps_outside 0 s
  · exact endChar_keeps_outside s
  · exact endDrain_keeps_outside hd
  · exact closeRx_keeps_outside hc

theorem rxChar_keeps_outside {x : Byte} {s t : State} (h : rxChar x s = .next t) : s.OutsideKept t := by
  obtain ⟨-, rfl⟩ | ⟨-, -, rfl⟩ | ⟨-, -, hc⟩ := rxChar_next h
  · exact s.mapBlock_keeps_outside _
  · exact s.mapBlock_keeps_outside _
  · exact (s.mapBlock_keeps_outside _).trans (closeRx_keeps_outside hc)

theorem deliver_keeps_outside {c : Option Byte} {s t : State} (h : deliver c s = .next t) : s.OutsideKept t := by
  obtain ⟨-, rfl⟩ | ⟨-, x, -, hx⟩ | ⟨-, -, hx⟩ := deliver_next h
  · exact .refl _
  · exact rxChar_keeps_outside hx
  · exact s.draw_keeps_outside.trans (rxChar_keeps_outside hx)

end Sys2Proof.Machine
end

section
/-! Who takes the next step: O43 and O44. -/

namespace Sys2Proof.Machine

/-! Who steps next (00_scope.md R8, R9). -/

theorem step_eq_noteOutcome {s : State} {a : Action} (h : s.nextAction = a) : step s = noteOutcome s (perform a s) := by
  rw [step, takeStep, h]

theorem State.nextAction_of_engineDue {s : State} (hr : s.resetDue = false) (he : s.engineDue = true) :
    s.nextAction = .engine := by
  simp [State.nextAction, hr, he]

/-- A due character has the turn unless a ready host statement meets it and the tie order begins with the Host
(log 9). -/
theorem State.nextAction_of_busDue {s : State} (hr : s.resetDue = false) (he : s.engineDue = false)
    (hb : s.busDue = true) (ht : s.hostReady = true → s.env.ties.head? ≠ some .host) :
    s.nextAction = .bus s.hostReady := by
  cases hh : s.hostReady <;> simp_all [State.nextAction]

/-- A ready host statement has the turn unless a due character meets it and the tie order does not begin with the Host
(log 9). -/
theorem State.nextAction_of_hostReady {s : State} (hr : s.resetDue = false) (he : s.engineDue = false)
    (hh : s.hostReady = true) (ht : s.busDue = false ∨ s.env.ties.head? = some .host) :
    s.nextAction = .host s.busDue := by
  cases hb : s.busDue <;> simp_all [State.nextAction]

/-- Settles O43: the action chosen is the Engine's, and with no Engine step due the Bus's. -/
theorem stepTakesTheDueAgent : Obligations.StepTakesTheDueAgent := by
  intro s hr
  refine ⟨fun he => step_eq_noteOutcome (State.nextAction_of_engineDue hr he), fun c rest he hbus hle => ?_⟩
  have hb : s.busDue = true := s.busDue_iff.mpr ⟨c, rest, hbus, hle⟩
  constructor
  · intro hh
    rw [step_eq_noteOutcome (State.nextAction_of_busDue hr he hb (by simp [hh])), hh]
    simp [perform, State.popTie, State.popBus, busStep, hbus]
  · intro hh ht
    rw [step_eq_noteOutcome (State.nextAction_of_busDue hr he hb fun _ => ht), hh]
    simp [perform, State.popTie, State.popBus, busStep, hbus]

/-- With the turn the Host's, the step is its next statement, taken off the program (00_scope.md R8, log 9). -/
theorem step_of_hostReady {s : State} {c : HostStmt} {rest : List HostStmt} (hr : s.resetDue = false)
    (he : s.engineDue = false) (ht : s.busDue = false ∨ s.env.ties.head? = some .host) (hc : s.env.host = c :: rest)
    (hh : s.hostReady = true) :
    step s = noteOutcome s (hostStmt c
      { s with env := { s.env with host := rest, ties := if s.busDue then s.env.ties.tail else s.env.ties } }) := by
  rw [step_eq_noteOutcome (State.nextAction_of_hostReady hr he hh ht)]
  cases s.busDue <;> simp [perform, State.popTie, State.popHost, hostStep, hc]

/-- Settles O44: the step is the statement's, and a turn of POLL_DONE reads STATUS and ends exactly when DONE is 1. -/
theorem stepRunsTheHostStatement : Obligations.StepRunsTheHostStatement := by
  intro s rest hr he ht p
  refine ⟨fun off size hc => ?_, fun off size v hc => ?_, fun u hc hle => ?_,
    fun next hc => ⟨fun hd => ?_, fun hd hle => ?_⟩⟩
  · exact step_of_hostReady hr he ht hc (by simp [State.hostReady, hc])
  · exact step_of_hostReady hr he ht hc (by simp [State.hostReady, hc])
  · exact step_of_hostReady hr he ht hc (by simp [State.hostReady, hc, hle])
  · have hp : p.view.done = true := hd
    rw [step_of_hostReady hr he ht hc (by simp [State.hostReady, hc, hd]), hostStmt, hostPoll_eq, if_pos hp]
    rfl
  · have hp : ¬p.view.done = true := Bool.eq_false_iff.mp hd
    refine ⟨s.now + p.pollGap, Nat.le_add_right _ _, fun g gs hg => ?_, ?_⟩
    · simp [State.pollGap, p, hg]
    · rw [step_of_hostReady hr he ht hc (by simp [State.hostReady, hc, hle]), hostStmt, hostPoll_eq, if_neg hp]
      rfl

end Sys2Proof.Machine
end

section
/-! The observation and the traces of the lines: O50 and O47. -/

namespace Sys2Proof.Machine

/-- The byte and the start time of a transmitted character: what a reset that cuts it off leaves 
(70_reset_and_hazards.md R271). -/
def TxChar.sent (c : TxChar) : Byte × Nat := (c.byte, c.start)

/-- What any agent's move does to the observation before the lines are noted: values read and characters sent are added
at the end. -/
structure State.Grows (s t : State) : Prop where
  params   : t.params = s.params
  draws    : s.draws ≤ t.draws
  reads    : s.obs.reads <+: t.obs.reads
  dirTrace : t.obs.dirTrace = s.obs.dirTrace
  irqTrace : t.obs.irqTrace = s.obs.irqTrace
  txdTrace : s.obs.txdTrace.map TxChar.sent <+: t.obs.txdTrace.map TxChar.sent

theorem State.Grows.trans {s t u : State} (h : s.Grows t) (k : t.Grows u) : s.Grows u :=
  ⟨k.params.trans h.params, h.draws.trans k.draws, h.reads.trans k.reads, k.dirTrace.trans h.dirTrace,
    k.irqTrace.trans h.irqTrace, h.txdTrace.trans k.txdTrace⟩

theorem State.OutsideKept.grows {s t : State} (h : s.OutsideKept t) : s.Grows t := by
  obtain ⟨sent, hobs⟩ := h.obs
  exact ⟨h.params, h.draws, by simp [hobs], by simp [hobs], by simp [hobs], by simp [hobs]⟩

/-- A move that leaves the parameters, the draws and the observation alone. -/
theorem State.Grows.of_eq {s t : State} (hp : t.params = s.params) (hd : t.draws = s.draws) (ho : t.obs = s.obs) :
    s.Grows t := by
  constructor <;> simp [hp, hd, ho]

theorem State.observe_grows (v : Word) (s : State) : s.Grows (s.observe v) := by
  constructor <;> simp

theorem State.pollAgain_grows (s : State) : s.Grows s.pollAgain := by
  constructor <;> simp

theorem map_sent_truncateLast (t : Nat) (cs : List TxChar) :
    (truncateLast t cs).map TxChar.sent = cs.map TxChar.sent := by
  induction cs using truncateLast.induct with
  | case1 => rfl
  | case2 c => rfl
  | case3 c d cs ih => simp [truncateLast, ih]

theorem State.setRst_grows (level : Bool) (s : State) : s.Grows (s.setRst level) := by
  cases level
  · refine ⟨rfl, le_rfl, by simp [State.setRst], rfl, rfl, ?_⟩
    show _ <+: (if s.charOnWire then truncateLast s.now s.obs.txdTrace else s.obs.txdTrace).map TxChar.sent
    split <;> simp [map_sent_truncateLast]
  · exact .of_eq rfl rfl rfl

theorem hostStmt_grows {c : HostStmt} {s t : State} (h : hostStmt c s = .next t) : s.Grows t := by
  obtain ⟨_, _, _, -, hw⟩ | ⟨v, rfl⟩ | ⟨v, rfl⟩ | rfl := hostStmt_next h
  · exact (hostWrite_keeps_outside hw).grows
  · exact s.observe_grows v
  · exact (s.observe_grows v).trans (State.pollAgain_grows _)
  · exact .of_eq rfl rfl rfl

/-- Every step is a move that only adds to the reads and the `txd` trace, and then the lines are noted (log 16). -/
theorem step_grows {s t : State} (h : step s = .next t) : ∃ u, t = noteLines s u ∧ s.Grows u := by
  obtain ⟨u, rfl, hu⟩ := step_cases h
  refine ⟨u, rfl, ?_⟩
  obtain ⟨e, -, -, -, rfl⟩ | ⟨-, -, he⟩ | ⟨-, -, tie, c, -, -, -, hb⟩ | ⟨-, -, -, tie, c, -, -, hh⟩
    | ⟨-, -, -, -, v, -, rfl⟩ := hu
  · exact (State.Grows.of_eq (by simp) (by simp) (by simp)).trans (State.setRst_grows _ s.popRst)
  · exact (engineStep_keeps_outside he).grows
  exact (State.Grows.of_eq (by simp) (by simp) (by simp)).trans (deliver_keeps_outside hb).grows
  · exact (State.Grows.of_eq (by simp) (by simp) (by simp)).trans (hostStmt_grows hh)
  · exact .of_eq (by simp) (by simp) (by simp)

/-- Settles O50: an agent's move grows the observation, and noting the lines adds their edges at the end. -/
theorem observationOnlyGrows : Obligations.ObservationOnlyGrows := by
  intro s t h
  obtain ⟨u, rfl, hu⟩ := step_grows h
  refine ⟨hu.params, hu.draws, hu.reads, ?_, ?_, hu.txdTrace⟩
  · simp [hu.dirTrace]
  · simp [hu.irqTrace]

/-- Noting the edge from the recorded level to the present one leaves a trace that ends at the present one. -/
theorem levelOf_append_edgeOf {rest before : Bool} {es : List Edge} (h : levelOf rest es = before) (after : Bool)
    (t : Nat) : levelOf rest (es ++ edgeOf before after t) = after := by
  unfold edgeOf
  split
  · simp_all
  · simp [levelOf]

/-- Settles O47: no move writes the traces of `dir` and `irq`, and noting the lines brings them to the present
levels. -/
theorem stepKeepsTraces : Obligations.StepKeepsTraces := by
  rintro s t ⟨hdir, hirq⟩ h
  obtain ⟨u, rfl, hu⟩ := step_grows h
  constructor
  · rw [noteLines_dirTrace, hu.dirTrace]
    exact levelOf_append_edgeOf hdir u.dir u.now
  · rw [noteLines_irqTrace, hu.irqTrace]
    exact levelOf_append_edgeOf hirq u.irq u.now

end Sys2Proof.Machine
end

section
/-! The invariant of the block (10_state.md R38 to R40): what keeps it at rest and while a command runs. -/

namespace Sys2Proof.Machine

/-! The block at rest: with no command running the invariant says only what RXBUF and the held frame are. -/

/-- No command runs, and RXBUF and the held frame are as the invariant has them. -/
structure Block.Rests (v : CrcVariant) (b : Block) : Prop where
  phase : b.phase = .idle
  op    : b.op = .none
  rxbuf : b.rxbufFits
  frame : b.frameFits v

section
variable {v : CrcVariant} {b c : Block}

theorem Block.phase_of_not_busy (h : b.busy = false) : b.phase = .idle := by simpa [Block.busy] using h

theorem Block.Rests.inv (h : b.Rests v) : b.Inv v := by
  obtain ⟨hphase, hop, hrx, hf⟩ := h
  constructor
  case op => simpa [Block.opFits, hphase] using hop
  case running => simp [Block.runningFits, Block.busy, hphase]
  case send => simp [Block.sendFits, Phase.sending, hphase]
  case request => simp [Block.requestFits, hop]
  case window => simp [Block.windowFits, hphase]
  case rxbuf => exact hrx
  case frame => exact hf

theorem Block.Inv.rests (h : b.Inv v) (hi : b.phase = .idle) : b.Rests v :=
  ⟨hi, by simpa [Block.opFits, hi] using h.op, h.rxbuf, h.frame⟩

/-- `complete` puts the block at rest; RXBUF and the held frame are those it finds (60_exceptions.md R241). -/
theorem Block.complete_rests (r : Result) (hrx : b.rxbufFits) (hf : b.frameFits v) : (b.complete r).Rests v :=
  ⟨rfl, rfl, hrx, hf⟩

theorem Block.reset_rests (v : CrcVariant) : Block.reset.Rests v := by
  refine ⟨rfl, rfl, ⟨by decide, fun k _ => bufGet_bufZero k⟩, ?_⟩
  simp [Block.frameFits, Block.reset, rxFieldsZero]

/-! The held frame (10_state.md R31 to R33). -/

theorem Block.frameFits_of_invalid (h : b.frameFits v) (hrxf : c.rxf = b.rxf) (hdlen : c.dlen = b.dlen)
    (hv : c.valid = false) : c.frameFits v := by
  simp_all [Block.frameFits]

theorem Block.clearRxf_frameFits (v : CrcVariant) (b : Block) : b.clearRxf.frameFits v := by
  simp [Block.frameFits, rxFieldsZero]

theorem decodeBytes_data_length {bs : List Byte} {n : Nat} {f : Frame} (h : decodeBytes bs n = .frame f)
    (hn : 4 ≤ n) : f.data.length = n - 4 := by
  unfold decodeBytes at h
  split at h <;> cases h
  simp only [List.length_take, List.length_drop]
  omega

/-- The total lengths of DECODE and of the transactions (41_codec.md R147, 43_transactions.md R212). -/
theorem dlen_toNat_of_totalLen {n : Nat} (hn : n = 6 ∨ n = 7 ∨ n = 8) : (BitVec.ofNat 3 (n - 4)).toNat = n - 4 := by
  rcases hn with rfl | rfl | rfl <;> rfl

/-- RXF and RXINFO hold a decoded frame whole: reading it back gives the frame (41_codec.md R147). -/
theorem Block.loadRxf_rxFrame {f : Frame} {n : Nat} (hn : n = 6 ∨ n = 7 ∨ n = 8) (hf : f.data.length = n - 4)
    (b : Block) : (b.loadRxf n f).rxFrame = f := by
  have hdata : (rxFieldsOf f).data (n - 4) = f.data := by
    refine List.ext_getElem (by simp [RxFields.data, hf]; omega) fun k hk hk' => ?_
    have hlt : k < 4 := by omega
    interval_cases k <;> simp [RxFields.data, rxFieldsOf, List.getElem?_eq_getElem hk']
  simp only [Block.rxFrame, Block.loadRxf_rxf, Block.loadRxf_dlen, dlen_toNat_of_totalLen hn, hdata]
  rfl

theorem Block.loadRxf_frameFits {f : Frame} {n : Nat} (hn : n = 6 ∨ n = 7 ∨ n = 8) (hf : f.data.length = n - 4)
    (b : Block) : (b.loadRxf n f).frameFits v := by
  refine ⟨?_, ?_, fun h => ?_, fun h => ?_, by simp⟩
  · rcases hn with rfl | rfl | rfl <;> simp
  · rcases hn with rfl | rfl | rfl <;> simp
  · rw [Block.loadRxf_dlen, dlen_toNat_of_totalLen hn] at h
    simp [rxFieldsOf, List.getElem?_eq_none (l := f.data) (i := 2) (by omega)]
  · rw [Block.loadRxf_dlen, dlen_toNat_of_totalLen hn] at h
    simp [rxFieldsOf, List.getElem?_eq_none (l := f.data) (i := 3) (by omega)]

/-- VALID may be set on a held frame that passes the check (41_codec.md R144). -/
theorem Block.frameFits_of_valid (h : b.frameFits v) (hrxf : c.rxf = b.rxf) (hdlen : c.dlen = b.dlen)
    (h0 : b.dlen ≠ 0) (hv : validateFrame v b.rxFrame = true) : c.frameFits v := by
  have hframe : c.rxFrame = b.rxFrame := by simp [Block.rxFrame, hrxf, hdlen]
  simp_all [Block.frameFits]

/-! The commands that end in their own write leave the block at rest (20_memory.md R70). -/

section
variable (h : b.Rests v)
include h

theorem Block.Rests.doCrcInit : (doCrcInit b).Rests v := Block.complete_rests _ h.rxbuf h.frame

theorem Block.Rests.doCrcFeed (w : CrcVariant) (x : Byte) : (doCrcFeed w x b).Rests v :=
  Block.complete_rests _ h.rxbuf h.frame

theorem Block.Rests.doEncode (w : CrcVariant) (n : Nat) : (doEncode w n b).Rests v :=
  Block.complete_rests _ h.rxbuf h.frame

theorem Block.Rests.doDecode {n : Nat} (hn : n = 6 ∨ n = 7 ∨ n = 8) : (doDecode n b).Rests v := by
  unfold Machine.doDecode
  split
  · exact Block.complete_rests _ h.rxbuf (Block.clearRxf_frameFits v b)
  · next f hf =>
    exact Block.complete_rests _ h.rxbuf (Block.loadRxf_frameFits hn (decodeBytes_data_length hf (by omega)) b)

theorem Block.Rests.doValidate : (doValidate v b).Rests v := by
  unfold Machine.doValidate
  split
  · exact Block.complete_rests _ h.rxbuf (Block.frameFits_of_invalid h.frame rfl rfl rfl)
  · next h0 =>
    dsimp only
    split
    · next hc =>
      exact Block.complete_rests _ h.rxbuf (Block.frameFits_of_valid h.frame rfl rfl h0 (beq_iff_eq.mpr hc))
    · exact Block.complete_rests _ h.rxbuf (Block.frameFits_of_invalid h.frame rfl rfl rfl)

end

/-- `finish_xact` puts the block at rest with the received frame, checked, or none (43_transactions.md R212, R215). -/
theorem Block.finishXact_rests (hrx : b.rxbufFits) (hn : b.rxN = 6 ∨ b.rxN = 7) : (b.finishXact v).Rests v := by
  unfold Block.finishXact
  split
  · exact Block.complete_rests _ hrx (Block.clearRxf_frameFits v b)
  · next f hf =>
    have hn' : b.rxN = 6 ∨ b.rxN = 7 ∨ b.rxN = 8 := by omega
    have hlen := decodeBytes_data_length hf (by omega)
    dsimp only
    split
    · next hc =>
      refine Block.complete_rests _ hrx
        (Block.frameFits_of_valid (Block.loadRxf_frameFits hn' hlen b) rfl rfl ?_ ?_)
      · rcases hn with h6 | h7 <;> simp [*]
      · rw [Block.loadRxf_rxFrame hn' hlen]
        exact beq_iff_eq.mpr hc
    · exact Block.complete_rests _ hrx (Block.clearRxf_frameFits v _)

/-! A running command: writes and dropped characters touch only its flags. -/

/-- The request of a transaction depends on TXF, TXBUF, TXLEN, CRC and the command alone (43_transactions.md R210). -/
theorem Block.requestFits_congr (h : b.requestFits v) (hop : c.op = b.op) (htxf : c.txf = b.txf)
    (hbuf : c.txbuf = b.txbuf) (hlen : c.txlen = b.txlen) (hcrc : c.crc = b.crc) : c.requestFits v := by
  unfold Block.requestFits
  rwa [hop, Block.encodeIntoTxbuf_eq_self_congr v 4 htxf hbuf hlen hcrc,
    Block.encodeIntoTxbuf_eq_self_congr v 2 htxf hbuf hlen hcrc]

/-- The flags and the enables are free, but for DONE and PORT_EN of a running command (10_state.md R21, R22). -/
theorem Block.Inv.setFlags (h : b.Inv v) {portEn irqEn done rxDrop busyWr : Bool}
    (hrun : b.busy = true → done = false ∧ portEn = true) :
    { b with portEn, irqEn, done, rxDrop, busyWr : Block }.Inv v where
  op := h.op
  running hb := ⟨(hrun hb).1, (h.running hb).2.1, (hrun hb).2⟩
  send := h.send
  request := Block.requestFits_congr h.request rfl rfl rfl rfl rfl
  window := h.window
  rxbuf := h.rxbuf
  frame := h.frame

theorem Block.Inv.markBusyWr (h : b.Inv v) : b.markBusyWr.Inv v :=
  h.setFlags fun hb => ⟨(h.running hb).1, (h.running hb).2.2⟩

theorem Block.Inv.dropChar (h : b.Inv v) : b.dropChar.Inv v :=
  h.setFlags fun hb => ⟨(h.running hb).1, (h.running hb).2.2⟩

theorem Block.Inv.writeStatus (h : b.Inv v) (w : Word) : (b.writeStatus w).Inv v :=
  h.setFlags fun hb => by simp [h.running hb]

theorem Block.Inv.writeCtrl (h : b.Inv v) (w : Word) : (b.writeCtrl w).Inv v :=
  h.setFlags fun hb => by simp [h.running hb, hb]

/-- b and c agree on the timer of the sequencer: phase, deadline and the opening of the window, and T_RXTO while BUSY
(10_state.md R38). -/
structure Block.SameTimer (b c : Block) : Prop where
  phase : c.phase = b.phase
  tDead : c.tDead = b.tDead
  tOpen : c.tOpen = b.tOpen
  tRxto : b.busy = true → c.tRxto = b.tRxto

end

end Sys2Proof.Machine
end

section
/-! The invariant of the machine through a command (30_encoding.md R95). -/

namespace Sys2Proof.Machine

section
variable {s t : State}

/-! The invariant of a released machine, by its block: at rest, or with the timer of before. -/

/-- What the invariant says outside the block, while reset is released. -/
structure State.Released (s : State) : Prop where
  charNs  : 0 < s.params.charNs
  rstN    : s.rstN = true
  scripts : s.scriptsFit

theorem State.Inv.released (h : s.Inv) (hr : s.rstN = true) : s.Released := ⟨h.charNs, hr, h.scripts⟩

theorem State.Released.mapBlock (h : s.Released) (f : Block → Block) : (s.mapBlock f).Released :=
  ⟨h.charNs, h.rstN, h.scripts⟩

theorem State.Inv.released_of_busy (h : s.Inv) (hb : s.block.busy = true) : s.Released := by
  refine h.released (Bool.of_not_eq_false fun hr => ?_)
  rw [h.held hr] at hb
  exact absurd hb (by decide)

theorem State.Released.inv_of_rests (h : s.Released) (hb : s.block.Rests s.params.crcVariant) : s.Inv := by
  have hidle := hb.phase
  constructor
  case charNs => exact h.charNs
  case held => simp [h.rstN]
  case block => exact hb.inv
  case onTime => simp [Block.busy, hidle]
  case deadline => simp [State.deadlineFits, hidle]
  case started => simp [hidle]
  case scripts => exact h.scripts

theorem State.Inv.mapBlock_of_sameTimer (h : s.Inv) (hr : s.rstN = true) {f : Block → Block}
    (hb : (f s.block).Inv s.params.crcVariant) (ht : s.block.SameTimer (f s.block)) : (s.mapBlock f).Inv := by
  have hbusy : (f s.block).busy = s.block.busy := by simp [Block.busy, ht.phase]
  constructor
  case charNs => exact h.charNs
  case held => simp [hr]
  case block => exact hb
  case onTime => simpa [hbusy, ht.tDead] using h.onTime
  case deadline =>
    intro hp
    have hp' : s.block.phase = .rxwait := ht.phase.symm.trans hp
    have hrx : (f s.block).tRxto = s.block.tRxto := ht.tRxto (by simp [Block.busy, hp'])
    simpa [hrx, ht.tOpen, ht.tDead] using h.deadline hp'
  case started => simpa [ht.phase, ht.tDead] using h.started
  case scripts => exact h.scripts

/-- The invariant reads the scripts in `scriptsFit` alone, and neither draws nor observation. -/
theorem State.Inv.congr (h : s.Inv) (hp : t.params = s.params) (hb : t.block = s.block) (hr : t.rstN = s.rstN)
    (hn : t.now = s.now) (hs : t.scriptsFit) : t.Inv := by
  obtain ⟨hchar, hheld, hblock, htime, hdead, hstart, -⟩ := h
  refine ⟨?_, ?_, ?_, ?_, ?_, ?_, hs⟩
  · rwa [hp]
  · rwa [hr, hb]
  · rwa [hp, hb]
  · rwa [hb, hn]
  · unfold State.deadlineFits
    rwa [hp, hb, hn]
  · rwa [hp, hb, hn]

theorem State.Inv.markBusyWr (h : s.Inv) (hr : s.rstN = true) : (s.mapBlock Block.markBusyWr).Inv :=
  h.mapBlock_of_sameTimer hr h.block.markBusyWr ⟨rfl, rfl, rfl, fun _ => rfl⟩

theorem State.now_le_deadline (s : State) (us : BitVec 24) : s.now ≤ s.deadline us :=
  (Nat.le_add_right _ _).trans (s.le_deadline us)

/-! Commands (30_encoding.md R95). -/

/-- The state in which the body of a command runs: accepted, with no command running and no result yet. -/
structure State.Accepted (s : State) : Prop where
  released : s.Released
  rests    : s.block.Rests s.params.crcVariant
  done     : s.block.done = false
  result   : s.block.result = .ok

theorem State.Inv.accepted (h : s.Inv) (hr : s.ready = true) : (s.mapBlock Block.accept).Accepted := by
  obtain ⟨hrst, hbusy⟩ := s.ready_iff.mp hr
  obtain ⟨hphase, hop, hrx, hf⟩ := h.block.rests (Block.phase_of_not_busy hbusy)
  exact ⟨(h.released hrst).mapBlock _, ⟨hphase, hop, hrx, hf⟩, rfl, rfl⟩

theorem State.Accepted.complete (h : s.Accepted) (r : Result) : (s.mapBlock (Block.complete r)).Inv :=
  (h.released.mapBlock _).inv_of_rests (Block.complete_rests r h.rests.rxbuf h.rests.frame)

theorem State.Accepted.encodeIntoTxbuf (h : s.Accepted) (n : Nat) :
    (s.mapBlock (Block.encodeIntoTxbuf s.params.crcVariant n)).Accepted :=
  ⟨h.released.mapBlock _, ⟨h.rests.phase, h.rests.op, h.rests.rxbuf, h.rests.frame⟩, h.done, h.result⟩

/-- A command keeps the invariant when its body does from the state of its acceptance. -/
theorem command_inv (h : s.Inv) {l : Bool} {f : State → State}
    (hf : l = true → ∀ u : State, u.Accepted → u.params = s.params → (f u).Inv) : (command l f s).Inv := by
  obtain ⟨-, heq⟩ | ⟨hr, -, heq⟩ | ⟨hr, -, heq⟩ | ⟨hr, hl, heq⟩ := command_cases l f s <;> rw [heq]
  · exact h
  · exact h.markBusyWr hr
  · exact (h.accepted hr).complete .illegalCmd
  · exact hf hl _ (h.accepted hr) rfl

theorem immediate_inv (h : s.Inv) {l : Bool} {f : Block → Block}
    (hf : l = true → ∀ b : Block, b.Rests s.params.crcVariant → (f b).Rests s.params.crcVariant) :
    (immediate l f s).Inv := by
  refine command_inv h fun hl u hu hp => (hu.released.mapBlock f).inv_of_rests ?_
  have hb := hu.rests
  rw [hp] at hb
  simpa [hp] using hf hl _ hb

theorem withPort_inv (h : s.Accepted) {f : State → State} (hf : s.block.portEn = true → (f s).Inv) :
    (withPort f s).Inv := by
  cases hp : s.block.portEn
  · rw [withPort_of_closed hp]
    exact h.complete .transportError
  · rw [withPort_of_open hp]
    exact hf hp

/-- `begin_send` with a legal length and, for a transaction, its request in TXBUF (42_transport.md R174). -/
theorem beginSend_inv (h : s.Accepted) (hport : s.block.portEn = true) {op : BusOp}
    (hop : op = .send ∨ op = .regXact ∨ op = .coilXact)
    (hlen : 1 ≤ s.block.txlen.toNat ∧ s.block.txlen.toNat ≤ 8)
    (hreq : (s.block.setOp op).requestFits s.params.crcVariant) : (beginSend op s).Inv := by
  constructor
  case charNs => exact h.released.charNs
  case held => simp [beginSend, h.released.rstN]
  case block =>
    constructor
    case op => exact hop
    case running => exact fun _ => ⟨h.done, h.result, hport⟩
    case send => exact ⟨fun _ => hlen, nofun⟩
    case request => exact Block.requestFits_congr hreq rfl rfl rfl rfl rfl
    case window => exact nofun
    case rxbuf => exact h.rests.rxbuf
    case frame => exact h.rests.frame
  case onTime => exact fun _ => (s.mapBlock _).now_le_deadline s.block.tSettle
  case deadline => exact nofun
  case started => exact nofun
  case scripts => exact h.released.scripts

/-- The commands that open a window, and the bytes each waits for (42_transport.md R184; 43_transactions.md R211,
R214). -/
def BusOp.awaits (op : BusOp) (n : Nat) : Prop :=
  (op = .receive ∧ 1 ≤ n ∧ n ≤ 8) ∨ (op = .regXact ∧ n = 7) ∨ (op = .coilXact ∧ n = 6)

/-- `open_rx` for a running command that awaits n bytes (42_transport.md R178). -/
theorem openRx_inv (h : s.Released) {n : Nat} (hn : s.block.op.awaits n)
    (hrun : s.block.done = false ∧ s.block.result = .ok ∧ s.block.portEn = true)
    (hreq : s.block.requestFits s.params.crcVariant) (hf : s.block.frameFits s.params.crcVariant) :
    (openRx n s).Inv := by
  constructor
  case charNs => exact h.charNs
  case held => simp [openRx, h.rstN]
  case block =>
    constructor
    case op =>
      show s.block.op = .receive ∨ s.block.op = .regXact ∨ s.block.op = .coilXact
      exact hn.imp And.left (Or.imp And.left And.left)
    case running => exact fun _ => hrun
    case send => exact ⟨nofun, nofun⟩
    case request => exact Block.requestFits_congr hreq rfl rfl rfl rfl rfl
    case window =>
      intro _
      obtain ⟨hop, hn⟩ | ⟨hop, rfl⟩ | ⟨hop, rfl⟩ := hn <;> simp [openRx, hop]
      omega
    case rxbuf => exact ⟨Nat.zero_le _, fun k _ => bufGet_bufZero k⟩
    case frame => exact hf
  case onTime => exact fun _ => (s.mapBlock _).now_le_deadline s.block.tRxto
  case deadline => exact fun _ => ⟨le_rfl, State.le_deadline _ _, State.deadline_le _ _⟩
  case started => exact nofun
  case scripts => exact h.scripts

theorem doSend_inv (h : s.Accepted) : (doSend s).Inv := by
  unfold doSend
  split
  · next hlen =>
    refine withPort_inv h fun hport => beginSend_inv h hport (.inl rfl) ?_ ⟨nofun, nofun⟩
    simpa [txlenLegal, BitVec.le_def] using hlen
  · exact h.complete .illegalCmd

theorem doReceive_inv (h : s.Accepted) {n : Nat} (hn : 1 ≤ n ∧ n ≤ 8) : (doReceive n s).Inv :=
  withPort_inv h fun hport => openRx_inv (h.released.mapBlock _) (.inl ⟨rfl, hn⟩)
    ⟨h.done, h.result, hport⟩ ⟨nofun, nofun⟩ h.rests.frame

/-- The two transactions and their data lengths (43_transactions.md R210, R213). -/
theorem doTransaction_inv (h : s.Accepted) {op : BusOp} {n : Nat}
    (hop : op = .regXact ∧ n = 4 ∨ op = .coilXact ∧ n = 2) : (doTransaction op n s).Inv := by
  refine withPort_inv h fun hport => beginSend_inv (h.encodeIntoTxbuf n) hport ?_ ?_ ?_
  · obtain ⟨rfl, -⟩ | ⟨rfl, -⟩ := hop <;> simp
  · obtain ⟨-, rfl⟩ | ⟨-, rfl⟩ := hop <;> exact ⟨by simp, by simp⟩
  · obtain ⟨rfl, rfl⟩ | ⟨rfl, rfl⟩ := hop
    · exact ⟨fun _ => rfl, nofun⟩
    · exact ⟨nofun, fun _ => rfl⟩

theorem totalLenLegal_toNat {n : BitVec 4} (h : totalLenLegal n = true) :
    n.toNat = 6 ∨ n.toNat = 7 ∨ n.toNat = 8 := by
  simp only [totalLenLegal, Bool.or_eq_true, beq_iff_eq] at h
  obtain (rfl | rfl) | rfl := h <;> simp

/-- Every command keeps the invariant, whatever its operand (30_encoding.md R95). -/
theorem exec_inv (h : s.Inv) {i : Instr} (he : exec i s = .next t) : t.Inv := by
  cases i <;> cases he
  case crcInit => exact immediate_inv h fun _ b hb => hb.doCrcInit
  case crcFeed x => exact immediate_inv h fun _ b hb => hb.doCrcFeed _ x
  case encode n => exact immediate_inv h fun _ b hb => hb.doEncode _ n.toNat
  case decode n => exact immediate_inv h fun hl b hb => hb.doDecode (totalLenLegal_toNat hl)
  case validate => exact immediate_inv h fun _ b hb => hb.doValidate
  case send => exact command_inv h fun _ u hu _ => doSend_inv hu
  case receive n =>
    refine command_inv h fun hl u hu _ => doReceive_inv hu ?_
    simpa [countLegal, BitVec.le_def] using hl
  case regXact => exact command_inv h fun _ u hu _ => doTransaction_inv hu (.inl ⟨rfl, rfl⟩)
  case coilXact => exact command_inv h fun _ u hu _ => doTransaction_inv hu (.inr ⟨rfl, rfl⟩)

end

end Sys2Proof.Machine
end

section
/-! The invariant of the machine through every step: O46. -/

namespace Sys2Proof.Machine

section
variable {s t : State}

/-! Host writes (20_memory.md R64, R65). -/

/-- The write of an operand or timing register: it leaves a resting block at rest. -/
def KeepsRest (w : Block → Block) : Prop := ∀ (b : Block) (v : CrcVariant), b.Rests v → (w b).Rests v

/-- Everything a write to a register other than CMD can do: nothing, a CTRL or STATUS write, or a write that BUSY
refuses. -/
theorem Block.writeReg_cases (b : Block) (r : Reg) (v : Word) :
    b.writeReg r v = b ∨ b.writeReg r v = b.writeCtrl v ∨ b.writeReg r v = b.writeStatus v
      ∨ ∃ w, b.writeReg r v = b.guarded w ∧ KeepsRest w := by
  cases r
  case ctrl => exact .inr (.inl rfl)
  case status => exact .inr (.inr (.inl rfl))
  case cmd | crc | rxb0 | rxb1 | rxf0 | rxf1 | rxinfo => exact .inl rfl
  case txf0 | txf1 | txb0 | txb1 | txlen | tSettle | tDrain | tRxto =>
    exact .inr (.inr (.inr ⟨_, rfl, fun c u h => ⟨h.phase, h.op, h.rxbuf, h.frame⟩⟩))

/-- A register write keeps the invariant (20_memory.md R65). -/
theorem writeReg_inv (h : s.Inv) (hr : s.rstN = true) (r : Reg) (v : Word) :
    (s.mapBlock fun b => b.writeReg r v).Inv := by
  show State.Inv { s with block := s.block.writeReg r v }
  obtain heq | heq | heq | ⟨w, heq, hw⟩ := s.block.writeReg_cases r v <;> rw [heq]
  · exact h
  · exact h.mapBlock_of_sameTimer (f := (·.writeCtrl v)) hr (h.block.writeCtrl v) ⟨rfl, rfl, rfl, fun _ => rfl⟩
  · exact h.mapBlock_of_sameTimer (f := (·.writeStatus v)) hr (h.block.writeStatus v) ⟨rfl, rfl, rfl, fun _ => rfl⟩
  · cases hb : s.block.busy
    · rw [Block.guarded, if_neg (by simp [hb])]
      exact ((h.released hr).mapBlock w).inv_of_rests (hw _ _ (h.block.rests (Block.phase_of_not_busy hb)))
    · rw [Block.guarded, if_pos hb]
      exact h.markBusyWr hr

theorem hostWrite_inv (h : s.Inv) {off : Offset} {size : Nat} {v : Word}
    (hw : hostWrite off size v s = .next t) : t.Inv := by
  obtain rfl | ⟨-, -, hc⟩ | ⟨hr, r, -, -, rfl⟩ := hostWrite_next hw
  · exact h
  · obtain ⟨i, -, he⟩ | rfl := commandWrite_next hc
    · exact exec_inv h he
    · exact command_inv h nofun
  · exact writeReg_inv h hr r v

theorem hostStmt_inv (h : s.Inv) {c : HostStmt} (hc : hostStmt c s = .next t) : t.Inv := by
  obtain ⟨_, _, _, -, hw⟩ | ⟨v, rfl⟩ | ⟨v, rfl⟩ | rfl := hostStmt_next hc
  · exact hostWrite_inv h hw
  · exact h.congr rfl rfl rfl rfl h.scripts
  · exact h.congr rfl rfl rfl rfl h.scripts
  · exact h

/-! The Engine (42_transport.md R175 to R183). -/

theorem Block.opFits_of_sending {b : Block} (hs : b.phase.sending = true) :
    b.opFits ↔ b.op = .send ∨ b.op = .regXact ∨ b.op = .coilXact := by
  unfold Block.opFits
  cases hp : b.phase <;> simp_all [Phase.sending]

theorem Block.busy_of_sending {b : Block} (hs : b.phase.sending = true) : b.busy = true := by
  cases hp : b.phase <;> simp_all [Phase.sending, Block.busy]

/-- From one phase of the transmit sequence to another, with a byte of TXBUF on the wire in SHIFT (42_transport.md R175,
R176). -/
theorem Block.Inv.enter_sending {v : CrcVariant} {b : Block} (h : b.Inv v) (hs : b.phase.sending = true) {p : Phase}
    (hp : p.sending = true) {k : Nat} (hk : p = .shift → k < b.txlen.toNat) (d : Nat) :
    ((b.setTxIdx k).enter p d).Inv v where
  op := (Block.opFits_of_sending hp).mpr ((Block.opFits_of_sending hs).mp h.op)
  running _ := h.running (Block.busy_of_sending hs)
  send := ⟨fun _ => h.send.1 hs, hk⟩
  request := Block.requestFits_congr h.request rfl rfl rfl rfl rfl
  window hw := by rw [show p = .rxwait from hw] at hp; cases hp
  rxbuf := h.rxbuf
  frame := h.frame

theorem shiftOut_inv (h : s.Inv) (hs : s.block.phase.sending = true) {k : Nat} (hk : k < s.block.txlen.toNat) :
    (shiftOut k s).Inv := by
  have hrel := h.released_of_busy (Block.busy_of_sending hs)
  constructor
  case charNs => exact hrel.charNs
  case held => simp [shiftOut, hrel.rstN]
  case block => exact h.block.enter_sending hs rfl (fun _ => hk) _
  case onTime => exact fun _ => Nat.le_add_right _ _
  case deadline => exact nofun
  case started => exact fun _ => le_rfl
  case scripts => exact hrel.scripts

theorem endChar_inv (h : s.Inv) (hs : s.block.phase.sending = true) : (endChar s).Inv := by
  unfold endChar
  split
  · next hk => exact shiftOut_inv h hs hk
  · have hrel := h.released_of_busy (Block.busy_of_sending hs)
    constructor
    case charNs => exact hrel.charNs
    case held => simp [hrel.rstN]
    case block => exact h.block.enter_sending (p := .drain) hs rfl nofun _
    case onTime => exact fun _ => (s.mapBlock _).now_le_deadline s.block.tDrain
    case deadline => exact nofun
    case started => exact nofun
    case scripts => exact hrel.scripts

theorem endDrain_inv (h : s.Inv) (hp : s.block.phase = .drain) (hd : endDrain s = .next t) : t.Inv := by
  have hbusy : s.block.busy = true := by simp [Block.busy, hp]
  have hrel := h.released_of_busy hbusy
  have hrun := h.block.running hbusy
  obtain ⟨-, rfl⟩ | ⟨hop, rfl⟩ | ⟨hop, rfl⟩ := endDrain_next hd
  · exact (hrel.mapBlock _).inv_of_rests (Block.complete_rests .ok h.block.rxbuf h.block.frame)
  · exact openRx_inv hrel (.inr (.inl ⟨hop, rfl⟩)) hrun h.block.request h.block.frame
  · exact openRx_inv hrel (.inr (.inr ⟨hop, rfl⟩)) hrun h.block.request h.block.frame

/-- A window that closes with RXBUF and the held frame in order leaves the block at rest (42_transport.md R183). -/
theorem closeRx_inv (h : s.Released) (hrx : s.block.rxbufFits) (hf : s.block.frameFits s.params.crcVariant)
    (hn : (s.block.op = .regXact → s.block.rxN = 7) ∧ (s.block.op = .coilXact → s.block.rxN = 6))
    (hc : closeRx s = .next t) : t.Inv := by
  obtain ⟨-, rfl⟩ | ⟨hop, rfl⟩ := closeRx_next hc
  · exact (h.mapBlock _).inv_of_rests (Block.complete_rests .ok hrx hf)
  · exact (h.mapBlock _).inv_of_rests (Block.finishXact_rests hrx (hop.symm.imp hn.2 hn.1))

theorem State.engineDue_iff (s : State) :
    s.engineDue = true ↔ s.rstN = true ∧ s.block.busy = true ∧ s.block.tDead ≤ s.now := by
  cases hr : s.rstN
  · simp [State.engineDue, State.view_of_held hr, Block.busy, Block.reset]
  · simp [State.engineDue, State.view_of_released hr]

theorem engineStep_inv (h : s.Inv) (hdue : s.engineDue = true) (he : engineStep s = .next t) : t.Inv := by
  obtain ⟨hr, -, -⟩ := s.engineDue_iff.mp hdue
  obtain ⟨hp, rfl⟩ | ⟨hp, rfl⟩ | ⟨hp, hd⟩ | ⟨hp, hc⟩ := engineStep_next he
  · have hs : s.block.phase.sending = true := by rw [hp]; rfl
    exact shiftOut_inv h hs (h.block.send.1 hs).1
  · exact endChar_inv h (by rw [hp]; rfl)
  · exact endDrain_inv h hp hd
  · exact closeRx_inv (h.released hr) h.block.rxbuf h.block.frame (h.block.window hp).2.2 hc

/-! The receiver (42_transport.md R179 to R181). -/

theorem charFits_phase (h : charFits s = true) : s.block.phase = .rxwait := by
  simp only [charFits, Bool.and_eq_true, beq_iff_eq] at h
  exact h.1.1

/-- In an open window RXCNT counts one more byte without wrapping (42_transport.md R179). -/
theorem Block.Inv.rxcnt_succ {v : CrcVariant} {b : Block} (h : b.Inv v) (hp : b.phase = .rxwait) :
    (b.rxcnt + 1).toNat = b.rxcnt.toNat + 1 := by
  obtain ⟨hlt, hle, -⟩ := h.window hp
  rw [BitVec.toNat_add]
  exact Nat.mod_eq_of_lt (show b.rxcnt.toNat + 1 < 16 by omega)

theorem Block.Inv.storeChar_rxbufFits {v : CrcVariant} {b : Block} (h : b.Inv v) (hp : b.phase = .rxwait) (x : Byte) :
    (b.storeChar x).rxbufFits := by
  obtain ⟨hlt, hle, -⟩ := h.window hp
  have hsucc : (b.storeChar x).rxcnt.toNat = b.rxcnt.toNat + 1 := h.rxcnt_succ hp
  refine ⟨by omega, fun k hk => ?_⟩
  rw [Block.storeChar_rxbuf, bufGet_bufSet_ne _ (by omega)]
  exact h.rxbuf.2 k (by omega)

theorem Block.Inv.storeChar {v : CrcVariant} {b : Block} (h : b.Inv v) (hp : b.phase = .rxwait) {x : Byte}
    (hne : (b.rxcnt + 1).toNat ≠ b.rxN) : (b.storeChar x).Inv v where
  op := h.op
  running := h.running
  send := h.send
  request := Block.requestFits_congr h.request rfl rfl rfl rfl rfl
  window _ := by
    obtain ⟨hlt, hle, hn⟩ := h.window hp
    rw [h.rxcnt_succ hp] at hne
    refine ⟨?_, hle, hn⟩
    rw [Block.storeChar_rxcnt, h.rxcnt_succ hp, Block.storeChar_rxN]
    omega
  rxbuf := h.storeChar_rxbufFits hp x
  frame := h.frame

theorem rxChar_inv (h : s.Inv) (hr : s.rstN = true) {x : Byte} (hx : rxChar x s = .next t) : t.Inv := by
  obtain ⟨-, rfl⟩ | ⟨hfit, hne, rfl⟩ | ⟨hfit, -, hc⟩ := rxChar_next hx
  · exact h.mapBlock_of_sameTimer hr h.block.dropChar ⟨rfl, rfl, rfl, fun _ => rfl⟩
  · exact h.mapBlock_of_sameTimer hr (h.block.storeChar (charFits_phase hfit) hne) ⟨rfl, rfl, rfl, fun _ => rfl⟩
  · have hp := charFits_phase hfit
    exact closeRx_inv ((h.released hr).mapBlock _) (h.block.storeChar_rxbufFits hp x) h.block.frame
      (h.block.window hp).2.2 hc

theorem deliver_inv (h : s.Inv) {c : Option Byte} (hd : deliver c s = .next t) : t.Inv := by
  obtain ⟨-, rfl⟩ | ⟨hr, x, -, hx⟩ | ⟨hr, -, hx⟩ := deliver_next hd
  · exact h
  · exact rxChar_inv h hr hx
  · exact rxChar_inv (s := { s with draws := s.draws + 1 }) (h.congr rfl rfl rfl rfl h.scripts) hr hx

/-! The scripts, the reset input and Time. -/

theorem State.scriptsFit_popTie (h : s.scriptsFit) (tie : Bool) : (s.popTie tie).scriptsFit := by
  simpa [State.scriptsFit] using h

theorem State.Inv.popHost (h : s.Inv) (tie : Bool) : (s.popTie tie).popHost.Inv :=
  h.congr (by simp) (by simp) (by simp) (by simp) (State.scriptsFit_popTie h.scripts tie)

theorem State.Inv.popBus (h : s.Inv) (tie : Bool) : (s.popTie tie).popBus.Inv := by
  obtain ⟨hbus, hbus', hrst⟩ := State.scriptsFit_popTie h.scripts tie
  refine h.congr (by simp) (by simp) (by simp) (by simp) ⟨?_, fun c hc => hbus' c (List.mem_of_mem_tail hc), hrst⟩
  show ((s.popTie tie).env.bus.tail.map BusChar.endTime).Pairwise _
  rw [List.map_tail]
  exact hbus.tail

theorem State.Inv.popRst (h : s.Inv) : s.popRst.Inv := by
  obtain ⟨hbus, hbus', hrst, hrst'⟩ := h.scripts
  refine h.congr rfl rfl rfl rfl ⟨hbus, hbus', ?_, fun e he => hrst' e (List.mem_of_mem_tail he)⟩
  show (s.env.rst.tail.map Edge.time).Pairwise _
  rw [List.map_tail]
  exact hrst.tail

/-- Either edge of `rst_n` keeps the invariant: a fall gives the block its reset values (70_reset_and_hazards.md
R270). -/
theorem setRst_inv (h : s.Inv) (level : Bool) : (s.setRst level).Inv := by
  cases level
  · constructor
    case charNs => exact h.charNs
    case held => exact fun _ => rfl
    case block => exact (Block.reset_rests _).inv
    case onTime => exact nofun
    case deadline => exact nofun
    case started => exact nofun
    case scripts => exact h.scripts
  · exact ⟨h.charNs, nofun, h.block, h.onTime, h.deadline, h.started, h.scripts⟩

/-- The head of a list in order is no later than any entry. -/
theorem le_of_pairwise_of_le_head {α : Type} {f : α → Nat} {xs : List α}
    (hs : (xs.map f).Pairwise (· ≤ ·)) {v : Nat} (hv : ∀ x ∈ xs.head?, v ≤ f x) : ∀ x ∈ xs, v ≤ f x := by
  cases xs with
  | nil => simp
  | cons x xs =>
    have hx : v ≤ f x := hv x rfl
    simp only [List.map_cons, List.pairwise_cons, List.mem_map, forall_exists_index, and_imp,
      forall_apply_eq_imp_iff₂] at hs
    intro y hy
    obtain rfl | hy := List.mem_cons.mp hy
    · exact hx
    · exact hx.trans (hs.1 y hy)

/-- The instants of the machine itself: the next edge of `rst_n`, the deadline and the next character's end. -/
theorem State.mem_instants (s : State) :
    (∀ e ∈ s.env.rst.head?, e.time ∈ s.instants) ∧ (s.view.busy = true → s.block.tDead ∈ s.instants)
      ∧ ∀ c ∈ s.env.bus.head?, c.endTime ∈ s.instants := by
  refine ⟨fun e he => ?_, fun hb => ?_, fun c hc => ?_⟩
  · simp [State.instants, Option.mem_def.mp he]
  · simp [State.instants, hb]
  · simp [State.instants, Option.mem_def.mp hc]

/-- With nothing due, every instant at which something will happen lies ahead (00_scope.md R9). -/
theorem State.now_lt_of_mem_instants (hr : s.resetDue = false) (he : s.engineDue = false) (hb : s.busDue = false)
    (hh : s.hostReady = false) {v : Nat} (hv : v ∈ s.instants) : s.now < v := by
  simp only [State.instants, List.mem_append] at hv
  obtain ((hv | hv) | hv) | hv := hv
  · unfold State.resetDue at hr
    cases hrst : s.env.rst <;> simp_all
  · unfold State.engineDue at he
    cases hbusy : s.view.busy <;> simp_all
  · unfold State.busDue at hb
    cases hbus : s.env.bus <;> simp_all
  · unfold State.hostReady at hh
    cases hc : s.env.host with
    | nil => simp [hc] at hv
    | cons c cs => cases c <;> simp_all

/-- Time advances to an instant ahead that is not past a deadline or the head of a script (00_scope.md R9). -/
theorem timeStep_inv (h : s.Inv) (hr : s.resetDue = false) (he : s.engineDue = false) (hb : s.busDue = false)
    (hh : s.hostReady = false) {v : Nat} (hv : earliest s.instants = some v) : (timeStep v s).Inv := by
  obtain ⟨hmem, hle⟩ := earliest_some hv
  have hnow : s.now ≤ v := (State.now_lt_of_mem_instants hr he hb hh hmem).le
  obtain ⟨hrst, hdead, hbus⟩ := s.mem_instants
  obtain ⟨hbusSorted, -, hrstSorted, -⟩ := h.scripts
  constructor
  case charNs => exact h.charNs
  case held => exact h.held
  case block => exact h.block
  case onTime =>
    intro hbusy
    refine hle _ (hdead ?_)
    rwa [State.view_of_released (h.released_of_busy hbusy).rstN]
  case deadline =>
    intro hp
    obtain ⟨hopen, hdl⟩ := h.deadline hp
    exact ⟨hopen.trans hnow, hdl⟩
  case started => exact fun hp => (h.started hp).trans (Nat.add_le_add_right hnow _)
  case scripts =>
    exact ⟨hbusSorted, le_of_pairwise_of_le_head hbusSorted fun c hc => hle _ (hbus c hc), hrstSorted,
      le_of_pairwise_of_le_head hrstSorted fun e he => hle _ (hrst e he)⟩

/-- Settles O46: each agent's move keeps the invariant, and the invariant does not read the traces of the lines. -/
theorem stepKeepsInvariant : Obligations.StepKeepsInvariant := by
  intro s t h hstep
  obtain ⟨u, rfl, hu⟩ := step_cases hstep
  suffices hinv : u.Inv from hinv.congr rfl rfl rfl rfl hinv.scripts
  obtain ⟨e, -, -, -, rfl⟩ | ⟨-, hdue, he⟩ | ⟨-, -, tie, c, -, -, -, hb⟩ | ⟨-, -, -, tie, c, -, -, hh⟩
    | ⟨hr, he, hb, hh, v, hv, rfl⟩ := hu
  · exact setRst_inv h.popRst e.level
  · exact engineStep_inv h hdue he
  · exact deliver_inv (h.popBus tie) hb
  · exact hostStmt_inv (h.popHost tie) hh
  · exact timeStep_inv h hr he hb hh hv

end

end Sys2Proof.Machine
end

section
/-! Time, deadlines and the ends of a run: O48 and O49. -/

namespace Sys2Proof.Machine

section
variable {s t : State}

/-! Time and the order of the agents (00_scope.md R9). -/

theorem hostStmt_keeps_now_and_bus {c : HostStmt} (h : hostStmt c s = .next t) :
    t.now = s.now ∧ t.env.bus = s.env.bus := by
  obtain ⟨_, _, _, -, hw⟩ | ⟨v, rfl⟩ | ⟨v, rfl⟩ | rfl := hostStmt_next h
  · have hk := hostWrite_keeps_outside hw
    exact ⟨hk.now, by rw [hk.env]⟩
  all_goals exact ⟨rfl, rfl⟩

/-- Time moves no line, so its step leaves no edge to note. -/
theorem noteLines_timeStep (v : Nat) (s : State) : noteLines s (timeStep v s) = timeStep v s := by
  have hdir : (timeStep v s).dir = s.dir := rfl
  have hirq : (timeStep v s).irq = s.irq := rfl
  rw [noteLines, hdir, hirq]
  simp [edgeOf, timeStep]

/-- Settles O48: Time alone moves `now`, to an instant ahead that is not past the deadline; the Bus alone takes a
character, the Host alone a statement. -/
theorem timeRespectsDeadlines : Obligations.TimeRespectsDeadlines := by
  intro s t h hstep
  obtain ⟨u, rfl, hu⟩ := step_cases hstep
  obtain ⟨e, -, -, -, rfl⟩ | ⟨-, -, hk⟩ | ⟨-, -, tie, c, cs, hbus, hle, hb⟩
    | ⟨-, he, -, tie, c, -, -, hh⟩ | ⟨hr, he, hb, hh, v, hv, rfl⟩ := hu
  · have hnow : (s.popRst.setRst e.level).now = s.now := by cases e.level <;> rfl
    have henv : (s.popRst.setRst e.level).env = s.popRst.env := by cases e.level <;> rfl
    simp [hnow, henv]
  · have hk := engineStep_keeps_outside hk
    simp [hk.now, hk.env]
  · have hk := deliver_keeps_outside hb
    have hend : c.endTime = s.now := Nat.le_antisymm hle (h.scripts.2.1 c (by simp [hbus]))
    simp [hk.now, hk.env, hbus, hend]
  · obtain ⟨hnow, hbus⟩ := hostStmt_keeps_now_and_bus hh
    simp [hnow, hbus, he]
  · rw [noteLines_timeStep]
    obtain ⟨hmem, hmin⟩ := earliest_some hv
    have hlt : s.now < v := State.now_lt_of_mem_instants hr he hb hh hmem
    refine ⟨hlt.le, fun _ => ⟨rfl, fun hbusy => ?_⟩, by simp, by simp⟩
    have hview : s.view.busy = true := by rwa [State.view_of_released (h.released_of_busy hbusy).rstN]
    have hdead := s.mem_instants.2.1 hview
    exact ⟨State.now_lt_of_mem_instants hr he hb hh hdead, hmin _ hdead⟩

/-! Where the machine stops (00_scope.md R10). -/

theorem closeRx_answers_next (hop : s.block.op = .receive ∨ s.block.op = .regXact ∨ s.block.op = .coilXact) :
    ∃ t, closeRx s = .next t := by
  obtain hop | hop | hop := hop <;> exact ⟨_, by rw [closeRx, hop]⟩

theorem endDrain_answers_next (hop : s.block.op = .send ∨ s.block.op = .regXact ∨ s.block.op = .coilXact) :
    ∃ t, endDrain s = .next t := by
  obtain hop | hop | hop := hop <;> exact ⟨_, by rw [endDrain, hop]⟩

/-- Phase and op of a window (42_transport.md R184; 43_transactions.md R211, R214). -/
theorem Block.Inv.op_of_rxwait {v : CrcVariant} {b : Block} (h : b.Inv v) (hp : b.phase = .rxwait) :
    b.op = .receive ∨ b.op = .regXact ∨ b.op = .coilXact := by
  simpa [Block.opFits, hp] using h.op

/-- The Engine is never stuck: a rule covers each phase and op of a running command (log 18). -/
theorem engineStep_answers_next (h : s.Inv) (hb : s.block.busy = true) : ∃ t, engineStep s = .next t := by
  unfold engineStep
  cases hp : s.block.phase with
  | idle => simp [Block.busy, hp] at hb
  | settle => exact ⟨_, rfl⟩
  | shift => exact ⟨_, rfl⟩
  | drain => exact endDrain_answers_next ((Block.opFits_of_sending (by rw [hp]; rfl)).mp h.block.op)
  | rxwait => exact closeRx_answers_next (h.block.op_of_rxwait hp)

theorem rxChar_answers_next (h : s.Inv) (x : Byte) : ∃ t, rxChar x s = .next t := by
  unfold rxChar
  split
  · next hfit =>
    dsimp only
    split
    · exact closeRx_answers_next (h.block.op_of_rxwait (charFits_phase hfit))
    · exact ⟨_, rfl⟩
  · exact ⟨_, rfl⟩

/-- A bus input never stops the machine. -/
theorem deliver_answers_next (h : s.Inv) (c : Option Byte) : ∃ t, deliver c s = .next t := by
  unfold deliver
  split
  · exact ⟨_, rfl⟩
  · cases c with
    | some x => exact rxChar_answers_next h x
    | none => exact rxChar_answers_next (h.congr (t := { s with draws := s.draws + 1 }) rfl rfl rfl rfl h.scripts) _

theorem writeOffset_answers_next (off : Offset) (v : Word) (s : State) : ∃ t, writeOffset off v s = .next t := by
  unfold writeOffset
  split
  · exact ⟨_, rfl⟩
  · split
    · exact commandWrite_answers_next v s
    · exact ⟨_, rfl⟩
    · exact ⟨_, rfl⟩

/-- A host statement stops the machine only as an access that 20_memory.md R61 refuses. -/
theorem hostStmt_answers (c : HostStmt) (s : State) :
    (∃ t, hostStmt c s = .next t)
      ∨ ∃ off size, hostStmt c s = .fault (.busError off) ∧ ¬(size = 4 ∧ off.toNat % 4 = 0)
        ∧ (c = .rd off size ∨ ∃ v, c = .wr off size v) := by
  cases c with
  | rd off size =>
    simp only [hostStmt, hostRead]
    split
    · exact .inl ⟨_, rfl⟩
    · next hadm => exact .inr ⟨off, size, rfl, mt (admitted_iff off size).mpr hadm, .inl rfl⟩
  | wr off size v =>
    simp only [hostStmt, hostWrite]
    split
    · exact .inl ⟨_, rfl⟩
    · split
      · exact .inl (writeOffset_answers_next off v s)
      · next hadm => exact .inr ⟨off, size, rfl, mt (admitted_iff off size).mpr hadm, .inr ⟨v, rfl⟩⟩
  | waitUntil u => exact .inl ⟨s, rfl⟩
  | pollDone next => exact .inl ⟨_, hostPoll_eq s⟩

theorem eq_nil_of_earliest_eq_none {ts : List Nat} (h : earliest ts = none) : ts = [] := by
  cases ts with
  | nil => rfl
  | cons a ts =>
    rw [earliest] at h
    split at h <;> cases h

/-- With no instant ahead and nothing due, the host program is finished, no command runs and the scripts are empty
(log 13). -/
theorem State.nothing_left (h : s.Inv) (hh : s.hostReady = false) (hi : earliest s.instants = none) :
    s.env.host = [] ∧ s.block.busy = false ∧ s.env.bus = [] ∧ s.env.rst = [] := by
  have hnil := eq_nil_of_earliest_eq_none hi
  obtain ⟨hrst, hdead, hbus⟩ := s.mem_instants
  simp only [hnil, List.not_mem_nil] at hrst hdead hbus
  refine ⟨State.host_waits_for_an_instant hi hh, Bool.eq_false_iff.mpr fun hb => hdead ?_, ?_, ?_⟩
  · rwa [State.view_of_released (h.released_of_busy hb).rstN]
  · exact List.head?_eq_none_iff.mp (Option.eq_none_iff_forall_not_mem.mpr hbus)
  · exact List.head?_eq_none_iff.mp (Option.eq_none_iff_forall_not_mem.mpr hrst)

/-- Every agent's move from a state of the invariant answers, but for a refused access and the end of the run. -/
theorem perform_answers (h : s.Inv) :
    (∃ t, perform s.nextAction s = .next t)
      ∨ (∃ off size rest, perform s.nextAction s = .fault (.busError off) ∧ ¬(size = 4 ∧ off.toNat % 4 = 0)
          ∧ (s.env.host = .rd off size :: rest ∨ ∃ v, s.env.host = .wr off size v :: rest))
      ∨ (perform s.nextAction s = .fault .hostFinished ∧ s.env.host = [] ∧ s.block.busy = false ∧ s.env.bus = []
          ∧ s.env.rst = []) := by
  obtain ⟨ha, hr⟩ | ⟨ha, -, he⟩ | ⟨tie, ha, -, -, hb⟩ | ⟨tie, ha, -, -, hh⟩ | ⟨v, ha, -⟩
    | ⟨ha, -, -, -, hh, hi⟩ := s.nextAction_cases <;> rw [ha]
  · obtain ⟨e, es, hes, -⟩ := s.resetDue_iff.mp hr
    exact .inl ⟨_, by rw [perform, resetStep, hes]⟩
  · exact .inl (engineStep_answers_next h (s.engineDue_iff.mp he).2.1)
  · obtain ⟨c, cs, hcs, -⟩ := s.busDue_iff.mp hb
    rw [perform, busStep, State.popTie_bus, hcs]
    exact .inl (deliver_answers_next (h.popBus tie) c.byte)
  · cases hcs : s.env.host with
    | nil => simp [State.hostReady, hcs] at hh
    | cons c cs =>
      rw [perform, hostStep, State.popTie_host, hcs]
      obtain hnext | ⟨off, size, hfault, hodd, hc⟩ := hostStmt_answers c (s.popTie tie).popHost
      · exact .inl hnext
      · exact .inr (.inl ⟨off, size, cs, hfault, hodd, by simpa using hc⟩)
  · exact .inl ⟨_, rfl⟩
  · exact .inr (.inr ⟨rfl, State.nothing_left h hh hi⟩)

theorem step_of_fault {f : Fault} (h : perform s.nextAction s = .fault f) : step s = .fault f := by
  rw [step, takeStep, h, noteOutcome]

/-- Settles O49: no agent's move is refused, and the only faults are the refused access and the end of the run. -/
theorem machineStopsOnlyAsTheSpecSays : Obligations.MachineStopsOnlyAsTheSpecSays := by
  intro s h
  obtain ⟨t, hnext⟩ | ⟨off, size, rest, hfault, hodd, hhost⟩ | ⟨hfault, hdone⟩ := perform_answers h
  · simp [step_of_perform hnext]
  · rw [step_of_fault hfault]
    refine ⟨nofun, fun f hf => ?_⟩
    cases hf
    exact .inl ⟨off, size, rest, rfl, hodd, hhost⟩
  · rw [step_of_fault hfault]
    refine ⟨nofun, fun f hf => ?_⟩
    cases hf
    exact .inr ⟨rfl, hdone⟩

end

end Sys2Proof.Machine
end

section
/-! The fields of the registers: O34 and O37. -/

namespace Sys2Proof.Machine

/-! Fields of a word put together from its parts. The widths stay sums (`-Nat.reduceAdd`), as the lemmas on `++` have
them. -/

/-- The four lanes of a register and its upper half (20_memory.md R66). -/
theorem ofLanes_fields (b0 b1 b2 b3 : Byte) :
    (ofLanes b0 b1 b2 b3).extractLsb' 0 8 = b0 ∧ (ofLanes b0 b1 b2 b3).extractLsb' 8 8 = b1
      ∧ (ofLanes b0 b1 b2 b3).extractLsb' 16 8 = b2 ∧ (ofLanes b0 b1 b2 b3).extractLsb' 24 8 = b3
      ∧ (ofLanes b0 b1 b2 b3).extractLsb' 16 16 = b3 ++ b2 := by
  have lanes : (b3 ++ b2 ++ b1 ++ b0).extractLsb' 0 8 = b0 ∧ (b3 ++ b2 ++ b1 ++ b0).extractLsb' 8 8 = b1
      ∧ (b3 ++ b2 ++ b1 ++ b0).extractLsb' 16 8 = b2 ∧ (b3 ++ b2 ++ b1 ++ b0).extractLsb' 24 8 = b3
      ∧ (b3 ++ b2 ++ b1 ++ b0).extractLsb' 16 16 = b3 ++ b2 := by
    simp [-Nat.reduceAdd, BitVec.extractLsb'_append_eq_of_le, BitVec.extractLsb'_append_eq_right]
  exact lanes

/-- A field at bit 0 with nothing above it. -/
theorem setWidth_fields {n : Nat} (k : Nat) (x : BitVec n) :
    (x.setWidth (n + k)).extractLsb' 0 n = x ∧ (x.setWidth (n + k)).extractLsb' n k = 0 := by
  constructor
  · simp [BitVec.extractLsb'_setWidth_of_le]
  · ext i hi
    simp

theorem crc_of_bytes (c : Half) : crcHi c ++ crcLo c = c :=
  (BitVec.extractLsb'_append_extractLsb'_eq_extractLsb' rfl).trans BitVec.extractLsb'_eq_self

/-- The two registers of a buffer hold its bytes in their lanes (10_state.md R28, R30). -/
theorem bufWord_lanes (b : Buf) {k : Nat} (hk : k < 4) :
    (bufWord0 b).extractLsb' (8 * k) 8 = bufGet b k ∧ (bufWord1 b).extractLsb' (8 * k) 8 = bufGet b (4 + k) := by
  interval_cases k <;> simp [bufWord0, bufWord1, ofLanes_fields]

theorem ctrlWord_fields (b : Block) :
    b.ctrlWord.getLsbD 0 = b.portEn ∧ b.ctrlWord.getLsbD 1 = b.irqEn ∧ b.ctrlWord.extractLsb' 2 30 = 0 := by
  have layout (hi : BitVec 30) (x y : Bool) :
      (hi ++ bit x ++ bit y).getLsbD 0 = y ∧ (hi ++ bit x ++ bit y).getLsbD 1 = x
        ∧ (hi ++ bit x ++ bit y).extractLsb' 2 30 = hi := by
    simp [-Nat.reduceAdd, bit, BitVec.getElem_append, BitVec.extractLsb'_append_eq_of_le]
  exact layout 0 _ _

theorem statusWord_fields (b : Block) :
    b.statusWord.getLsbD 0 = b.busy ∧ b.statusWord.getLsbD 1 = b.done ∧ b.statusWord.extractLsb' 2 3 = b.result.code
      ∧ b.statusWord.getLsbD 5 = b.valid ∧ b.statusWord.getLsbD 6 = b.dir ∧ b.statusWord.getLsbD 7 = b.rxDrop
      ∧ b.statusWord.getLsbD 8 = b.busyWr ∧ b.statusWord.extractLsb' 9 3 = 0
      ∧ b.statusWord.extractLsb' 12 4 = b.rxcnt ∧ b.statusWord.extractLsb' 16 3 = b.phase.code
      ∧ b.statusWord.extractLsb' 19 13 = 0 := by
  have layout (p : BitVec 3) (n : BitVec 4) (w d r v x y : Bool) (c : BitVec 3) :
      let s := 0#13 ++ p ++ n ++ 0#3 ++ bit w ++ bit d ++ bit r ++ bit v ++ c ++ bit x ++ bit y
      s.getLsbD 0 = y ∧ s.getLsbD 1 = x ∧ s.extractLsb' 2 3 = c ∧ s.getLsbD 5 = v ∧ s.getLsbD 6 = r ∧ s.getLsbD 7 = d
        ∧ s.getLsbD 8 = w ∧ s.extractLsb' 9 3 = 0 ∧ s.extractLsb' 12 4 = n ∧ s.extractLsb' 16 3 = p
        ∧ s.extractLsb' 19 13 = 0 := by
    simp [-Nat.reduceAdd, bit, BitVec.getElem_append, BitVec.extractLsb'_append_eq_of_le,
      BitVec.extractLsb'_append_eq_right]
  exact layout _ _ _ _ _ _ _ _ _

/-- The level of `dir` is 1 in IDLE and RXWAIT alone (10_state.md R41). -/
theorem Phase.dir_eq (p : Phase) : p.dir = (p == .idle || p == .rxwait) := by
  cases p <;> rfl

/-- Settles O34: each register's layout, field by field. -/
theorem registerFieldPlaces : Obligations.RegisterFieldPlaces := by
  intro b
  refine ⟨ctrlWord_fields b, ?status, setWidth_fields 16 b.crc, ?txf0, ?txf1, ?buffers, setWidth_fields 28 b.txlen, ?rxf0,
    ?rxf1, setWidth_fields 29 b.dlen, setWidth_fields 8 b.tSettle, setWidth_fields 8 b.tDrain, setWidth_fields 8 b.tRxto⟩
  case status =>
    obtain ⟨hbusy, hdone, hresult, hvalid, hdir, hdrop, hwr, hzero, hcnt, hphase, htop⟩ := statusWord_fields b
    refine ⟨hbusy, hdone, hresult.trans ?_, hvalid, hdir.trans b.phase.dir_eq, hdrop, hwr, hzero, hcnt,
      hphase.trans ?_, htop⟩
    · cases b.result <;> rfl
    · cases b.phase <;> rfl
  case txf0 =>
    obtain ⟨h0, h1, h2, h3, -⟩ := ofLanes_fields b.txf.addr b.txf.cmd b.txf.d0 b.txf.d1
    exact ⟨h0, h1, h2, h3⟩
  case txf1 =>
    obtain ⟨h0, h1, -, -, hhigh⟩ := ofLanes_fields b.txf.d2 b.txf.d3 0 0
    exact ⟨h0, h1, hhigh⟩
  case buffers =>
    intro k hk
    obtain ⟨htx0, htx1⟩ := bufWord_lanes b.txbuf hk
    obtain ⟨hrx0, hrx1⟩ := bufWord_lanes b.rxbuf hk
    exact ⟨htx0, htx1, hrx0, hrx1⟩
  case rxf0 =>
    obtain ⟨h0, h1, h2, h3, -⟩ := ofLanes_fields b.rxf.addr b.rxf.cmd b.rxf.d0 b.rxf.d1
    exact ⟨h0, h1, h2, h3⟩
  case rxf1 =>
    obtain ⟨h0, h1, -, -, hhigh⟩ := ofLanes_fields b.rxf.d2 b.rxf.d3 (crcLo b.rxf.crc) (crcHi b.rxf.crc)
    exact ⟨h0, h1, hhigh.trans (crc_of_bytes b.rxf.crc)⟩

/-! An immediate command ends in IDLE (10_state.md R39). -/

theorem doDecode_phase (n : Nat) (b : Block) : (doDecode n b).phase = .idle := by
  unfold doDecode
  split <;> rfl

theorem doValidate_phase (v : CrcVariant) (b : Block) : (doValidate v b).phase = .idle := by
  unfold doValidate
  dsimp only
  split
  · rfl
  · split <;> rfl

/-- A command that ends inside its own write leaves the phase IDLE: refused, it changes no phase, and accepted, it
completes. -/
theorem immediate_phase {s : State} (hs : s.block.phase = .idle) {l : Bool} {f : Block → Block}
    (hf : ∀ b, (f b).phase = .idle) : (immediate l f s).block.phase = .idle := by
  obtain ⟨-, h⟩ | ⟨-, -, h⟩ | ⟨-, -, h⟩ | ⟨-, -, h⟩ := command_cases l (State.mapBlock f) s <;> rw [immediate, h]
  · exact hs
  · exact hs
  · rfl
  · exact hf _

/-- Settles O37: BUSY is bit 0 of STATUS, and every immediate command completes. -/
theorem busyExactlyWhenNotIdle : Obligations.BusyExactlyWhenNotIdle := by
  constructor
  · intro b
    obtain ⟨hbusy, -⟩ := statusWord_fields b
    show b.statusWord.getLsbD 0 = true ↔ _
    simp only [hbusy, Block.busy, bne_iff_ne]
  · intro i s t hi hs h
    obtain rfl | ⟨x, rfl⟩ | ⟨n, rfl⟩ | ⟨n, rfl⟩ | rfl := hi <;> cases h
    · exact immediate_phase hs fun _ => rfl
    · exact immediate_phase hs fun _ => rfl
    · exact immediate_phase hs fun _ => rfl
    · exact immediate_phase hs (doDecode_phase n.toNat)
    · exact immediate_phase hs (doValidate_phase _)

end Sys2Proof.Machine
end

section
/-! The frame of the nine commands: O38. -/

namespace Sys2Proof.Machine

/-- What the body of command i, run from s, leaves as it was: every field that its rule does not name (10_state.md R25,
41_codec.md R146 to R148, 42_transport.md R174, R178, R184, 43_transactions.md R210, R213). -/
structure State.Frame (i : Instr) (s t : State) : Prop where
  outside : t.params = s.params ∧ t.rstN = s.rstN ∧ t.now = s.now ∧ t.env = s.env ∧ t.obs = s.obs
  fixed   : t.block.portEn = s.block.portEn ∧ t.block.irqEn = s.block.irqEn ∧ t.block.rxDrop = s.block.rxDrop
    ∧ t.block.txf = s.block.txf ∧ t.block.tSettle = s.block.tSettle ∧ t.block.tDrain = s.block.tDrain
    ∧ t.block.tRxto = s.block.tRxto ∧ t.block.txIdx = s.block.txIdx
  busyWr  : t.block.busyWr = s.block.busyWr
  request : (∀ n, i ≠ .encode n) → i ≠ .regXact → i ≠ .coilXact →
    t.block.txbuf = s.block.txbuf ∧ t.block.txlen = s.block.txlen
  crc     : i = .send ∨ (∃ n, i = .decode n) ∨ (∃ n, i = .receive n) → t.block.crc = s.block.crc
  frame   : (∀ n, i ≠ .decode n) → t.block.rxf = s.block.rxf ∧ t.block.dlen = s.block.dlen
  valid   : (∀ n, i ≠ .decode n) → i ≠ .validate → t.block.valid = s.block.valid
  window  : (∀ n, i ≠ .receive n) → t.block.rxbuf = s.block.rxbuf ∧ t.block.rxcnt = s.block.rxcnt
    ∧ t.block.tOpen = s.block.tOpen ∧ t.block.rxN = s.block.rxN
  timer   : (∀ n, i ≠ .receive n) → i ≠ .send → i ≠ .regXact → i ≠ .coilXact →
    t.block.tDead = s.block.tDead ∧ t.draws = s.draws

section
variable {i : Instr} {s t u : State}

theorem State.Frame.refl (i : Instr) (s : State) : s.Frame i s := by
  constructor <;> simp

theorem State.Frame.of_accept (h : (s.mapBlock Block.accept).Frame i t) : s.Frame i t :=
  ⟨h.outside, h.fixed, h.busyWr, h.request, h.crc, h.frame, h.valid, h.window, h.timer⟩

theorem State.complete_frame (i : Instr) (r : Result) (s : State) : s.Frame i (s.mapBlock (Block.complete r)) := by
  constructor <;> simp

theorem withPort_frame {f : State → State} (hf : s.Frame i (f s)) : s.Frame i (withPort f s) := by
  unfold withPort
  split
  · exact hf
  · exact s.complete_frame i _

/-! The bodies of the nine commands. -/

theorem doCrcInit_frame (s : State) : s.Frame .crcInit (s.mapBlock doCrcInit) := by
  constructor <;> simp [doCrcInit]

theorem doCrcFeed_frame (v : CrcVariant) (x : Byte) (s : State) :
    s.Frame (.crcFeed x) (s.mapBlock (doCrcFeed v x)) := by
  constructor <;> simp [doCrcFeed]

theorem doEncode_frame (v : CrcVariant) (n : BitVec 4) (s : State) :
    s.Frame (.encode n) (s.mapBlock (doEncode v n.toNat)) := by
  constructor <;> simp [doEncode]

theorem doDecode_frame (n : BitVec 4) (s : State) : s.Frame (.decode n) (s.mapBlock (doDecode n.toNat)) := by
  simp only [State.mapBlock, doDecode]
  split <;> constructor <;> simp

theorem doValidate_frame (v : CrcVariant) (s : State) : s.Frame .validate (s.mapBlock (doValidate v)) := by
  simp only [State.mapBlock, doValidate]
  split
  · constructor <;> simp
  · split <;> constructor <;> simp

theorem doSend_frame (s : State) : s.Frame .send (doSend s) := by
  unfold doSend
  split
  · refine withPort_frame ?_
    constructor <;> simp [beginSend]
  · exact s.complete_frame _ _

theorem doReceive_frame (n : BitVec 4) (s : State) : s.Frame (.receive n) (doReceive n.toNat s) := by
  refine withPort_frame ?_
  constructor <;> simp [openRx]

theorem doTransaction_frame (hi : i = .regXact ∨ i = .coilXact) (op : BusOp) (n : Nat) (s : State) :
    s.Frame i (doTransaction op n s) := by
  refine withPort_frame ?_
  obtain rfl | rfl := hi <;> constructor <;> simp [beginSend]

/-- Every command is the shared acceptance around a body that keeps its frame (30_encoding.md R95). -/
theorem exec_eq_command (i : Instr) (s : State) :
    ∃ l f, exec i s = .next (command l f s) ∧ ∀ u : State, u.Frame i (f u) := by
  cases i with
  | crcInit => exact ⟨_, _, rfl, doCrcInit_frame⟩
  | crcFeed x => exact ⟨_, _, rfl, doCrcFeed_frame _ x⟩
  | encode n => exact ⟨_, _, rfl, doEncode_frame _ n⟩
  | decode n => exact ⟨_, _, rfl, doDecode_frame n⟩
  | validate => exact ⟨_, _, rfl, doValidate_frame _⟩
  | send => exact ⟨_, _, rfl, doSend_frame⟩
  | receive n => exact ⟨_, _, rfl, doReceive_frame n⟩
  | regXact => exact ⟨_, _, rfl, doTransaction_frame (.inl rfl) _ _⟩
  | coilXact => exact ⟨_, _, rfl, doTransaction_frame (.inr rfl) _ _⟩

/-- Everything a command can leave: BUSY_WR set by one refused while BUSY, and otherwise the frame of its body
(30_encoding.md R95). -/
theorem exec_frame (h : exec i s = .next t) :
    s.Frame i t ∧ (s.block.busy = true → t = s) ∨ s.block.busy = true ∧ t = s.mapBlock Block.markBusyWr := by
  obtain ⟨l, f, he, hf⟩ := exec_eq_command i s
  obtain rfl : command l f s = t := Host.Outcome.next.inj (he.symm.trans h)
  have not_busy (hr : s.ready = true) : ¬s.block.busy = true := by simp [(s.ready_iff.mp hr).2]
  obtain ⟨-, h⟩ | ⟨-, hb, h⟩ | ⟨hr, -, h⟩ | ⟨hr, -, h⟩ := command_cases l f s <;> rw [h]
  · exact .inl ⟨.refl i s, fun _ => rfl⟩
  · exact .inr ⟨hb, rfl⟩
  · exact .inl ⟨.of_accept (State.complete_frame i .illegalCmd _), fun hb => absurd hb (not_busy hr)⟩
  · exact .inl ⟨.of_accept (hf _), fun hb => absurd hb (not_busy hr)⟩

end

/-- Settles O38: a command refused while BUSY sets BUSY_WR, and any other keeps the frame of its body. -/
theorem commandFrame : Obligations.CommandFrame := by
  intro i s t h
  obtain ⟨hf, hbusy⟩ | ⟨hb, rfl⟩ := exec_frame h
  · refine ⟨hf.outside, hf.fixed, fun _ => hf.busyWr, fun hb => ?_, hf.request, hf.crc, hf.frame, hf.valid, hf.window,
      hf.timer⟩
    rw [hbusy hb]
    exact ⟨rfl, rfl⟩
  · refine ⟨?_, ?_, fun hb' => absurd hb (by simp [hb']), fun _ => ⟨rfl, rfl⟩, ?_⟩ <;> simp

end Sys2Proof.Machine
end

section
/-! RXBUF and the line `txd`: O54 and O52. -/

namespace Sys2Proof.Machine

section
variable {s t : State}

/-- RXBUF and RXCNT are those of b (10_state.md R30, R40). -/
def Block.SameRx (b c : Block) : Prop := c.rxbuf = b.rxbuf ∧ c.rxcnt = b.rxcnt

/-- A window is open since now, with nothing received (42_transport.md R178). -/
def State.FreshWindow (now : Nat) (t : State) : Prop :=
  t.block.phase = .rxwait ∧ t.block.tOpen = now ∧ t.block.rxcnt = 0 ∧ ∀ k, bufGet t.block.rxbuf k = 0

/-- RXBUF and RXCNT are left alone from s to t, or a window opened. -/
def State.RxKeptOrOpened (s t : State) : Prop := s.block.SameRx t.block ∨ t.FreshWindow s.now

theorem openRx_freshWindow (n : Nat) (s : State) : (openRx n s).FreshWindow s.now := by
  simp [State.FreshWindow, openRx]

/-- A register write leaves RXBUF and RXCNT alone: they are read-only (20_memory.md R64). -/
theorem Block.writeReg_sameRx (b : Block) (r : Reg) (v : Word) : b.SameRx (b.writeReg r v) := by
  have guarded (w : Block → Block) (hw : b.SameRx (w b)) : b.SameRx (b.guarded w) := by
    unfold Block.guarded
    split
    · exact ⟨rfl, rfl⟩
    · exact hw
  cases r
  case ctrl | status | cmd | crc | rxb0 | rxb1 | rxf0 | rxf1 | rxinfo => exact ⟨rfl, rfl⟩
  case txf0 | txf1 | txb0 | txb1 | txlen | tSettle | tDrain | tRxto => exact guarded _ ⟨rfl, rfl⟩

/-- The end of a transaction reads RXBUF and leaves it (43_transactions.md R212). -/
theorem Block.finishXact_sameRx (v : CrcVariant) (b : Block) : b.SameRx (b.finishXact v) := by
  unfold Block.finishXact
  split
  · exact ⟨rfl, rfl⟩
  · dsimp only
    split <;> exact ⟨rfl, rfl⟩

theorem closeRx_sameRx (h : closeRx s = .next t) : s.block.SameRx t.block := by
  obtain ⟨-, rfl⟩ | ⟨-, rfl⟩ := closeRx_next h
  · exact ⟨rfl, rfl⟩
  · exact s.block.finishXact_sameRx _

/-- The Engine changes RXBUF only where the drain of a transaction opens its window (43_transactions.md R211, R214). -/
theorem engineStep_rx (h : engineStep s = .next t) : s.RxKeptOrOpened t := by
  obtain ⟨-, rfl⟩ | ⟨-, rfl⟩ | ⟨-, hd⟩ | ⟨-, hc⟩ := engineStep_next h
  · exact .inl ⟨rfl, rfl⟩
  · unfold endChar
    split <;> exact .inl ⟨rfl, rfl⟩
  · obtain ⟨-, rfl⟩ | ⟨-, rfl⟩ | ⟨-, rfl⟩ := endDrain_next hd
    · exact .inl ⟨rfl, rfl⟩
    · exact .inr (openRx_freshWindow 7 s)
    · exact .inr (openRx_freshWindow 6 s)
  · exact .inl (closeRx_sameRx hc)

theorem withPort_rx {f : State → State} (hf : s.RxKeptOrOpened (f s)) : s.RxKeptOrOpened (withPort f s) := by
  unfold withPort
  split
  · exact hf
  · exact .inl ⟨rfl, rfl⟩

theorem command_rx {l : Bool} {f : State → State} (hf : ∀ u : State, u.RxKeptOrOpened (f u)) :
    s.RxKeptOrOpened (command l f s) := by
  obtain ⟨-, h⟩ | ⟨-, -, h⟩ | ⟨-, -, h⟩ | ⟨-, -, h⟩ := command_cases l f s <;> rw [h]
  · exact .inl ⟨rfl, rfl⟩
  · exact .inl ⟨rfl, rfl⟩
  · exact .inl ⟨rfl, rfl⟩
  · exact hf (s.mapBlock Block.accept)

/-- A command changes RXBUF only where RECEIVE opens its window (42_transport.md R184). -/
theorem exec_rx {i : Instr} (h : exec i s = .next t) : s.RxKeptOrOpened t := by
  by_cases hi : ∃ n, i = .receive n
  · obtain ⟨n, rfl⟩ := hi
    cases h
    exact command_rx fun u => withPort_rx (.inr (openRx_freshWindow _ _))
  · obtain ⟨hf, -⟩ | ⟨-, rfl⟩ := exec_frame h
    · obtain ⟨hbuf, hcnt, -⟩ := hf.window (not_exists.mp hi)
      exact .inl ⟨hbuf, hcnt⟩
    · exact .inl ⟨rfl, rfl⟩

theorem hostWrite_rx {off : Offset} {size : Nat} {v : Word} (h : hostWrite off size v s = .next t) :
    s.RxKeptOrOpened t := by
  obtain rfl | ⟨-, -, hc⟩ | ⟨-, r, -, -, rfl⟩ := hostWrite_next h
  · exact .inl ⟨rfl, rfl⟩
  · obtain ⟨i, -, he⟩ | rfl := commandWrite_next hc
    · exact exec_rx he
    · exact command_rx fun _ => .inl ⟨rfl, rfl⟩
  · exact .inl (s.block.writeReg_sameRx r v)

theorem hostStmt_rx {c : HostStmt} (h : hostStmt c s = .next t) : s.RxKeptOrOpened t := by
  obtain ⟨_, _, _, -, hw⟩ | ⟨v, rfl⟩ | ⟨v, rfl⟩ | rfl := hostStmt_next h
  · exact hostWrite_rx hw
  all_goals exact .inl ⟨rfl, rfl⟩

/-- A received character is stored at RXBUF[RXCNT] wholly inside the open window, or leaves RXBUF alone (42_transport.md
R179, R180). -/
theorem rxChar_rx {x : Byte} (h : rxChar x s = .next t) :
    s.block.SameRx t.block ∨ charFits s = true ∧ (s.block.storeChar x).SameRx t.block := by
  obtain ⟨-, rfl⟩ | ⟨hfit, -, rfl⟩ | ⟨hfit, -, hc⟩ := rxChar_next h
  · exact .inl ⟨rfl, rfl⟩
  · exact .inr ⟨hfit, rfl, rfl⟩
  · exact .inr ⟨hfit, closeRx_sameRx hc⟩

/-- The same for a character of the bus script, whose byte is the script's where it has one (42_transport.md R186). -/
theorem deliver_rx {c : Option Byte} (h : deliver c s = .next t) :
    s.block.SameRx t.block
      ∨ charFits s = true ∧ ∃ x, (∀ y, c = some y → y = x) ∧ (s.block.storeChar x).SameRx t.block := by
  obtain ⟨-, rfl⟩ | ⟨-, x, rfl, hx⟩ | ⟨-, rfl, hx⟩ := deliver_next h
  · exact .inl ⟨rfl, rfl⟩
  · exact (rxChar_rx hx).imp_right fun ⟨hfit, hst⟩ => ⟨hfit, x, fun y hy => (Option.some.inj hy).symm, hst⟩
  · exact (rxChar_rx hx).imp_right fun ⟨hfit, hst⟩ => ⟨hfit, _, nofun, hst⟩

theorem charFits_iff (s : State) :
    charFits s = true ↔ s.block.phase = .rxwait ∧ s.block.tOpen + s.params.charNs ≤ s.now ∧ s.now < s.block.tDead := by
  simp [charFits, and_assoc]

end

/-- Settles O54: the Engine and the Host leave RXBUF or open a window, the Bus leaves it or stores the character it takes,
and Time leaves it. -/
theorem rxbufChangesOnlyThroughAWindow : Obligations.RxbufChangesOnlyThroughAWindow := by
  intro s t h
  obtain ⟨u, rfl, hu⟩ := step_cases h
  obtain ⟨e, -, -, -, rfl⟩ | ⟨-, -, he⟩ | ⟨-, -, tie, c, cs, hbus, hle, hb⟩ | ⟨-, -, -, tie, c, -, -, hh⟩
    | ⟨-, -, -, -, v, -, rfl⟩ := hu
  · cases e.level
    · exact .inr (.inr (.inr rfl))
    · exact .inl ⟨rfl, rfl⟩
  · exact (engineStep_rx he).imp_right .inl
  · have henv : u.env.bus = cs := by simp [(deliver_keeps_outside hb).env, hbus]
    refine (deliver_rx hb).imp (by simp [Block.SameRx]) fun ⟨hfit, x, hx, hbuf, hcnt⟩ => .inr (.inl ?_)
    simp only [charFits_iff, State.popBus_block, State.popTie_block, State.popBus_params, State.popTie_params,
      State.popBus_now, State.popTie_now] at hfit hbuf hcnt
    obtain ⟨hphase, hopen, hdead⟩ := hfit
    refine ⟨hphase, hopen, hdead, hcnt, ⟨c, cs, hbus, henv, hle, fun y hy hlt => ?_⟩, fun k hk => ?_⟩
    · rw [noteLines_block, hbuf, hx y hy]
      exact bufGet_bufSet_same _ hlt x
    · rw [noteLines_block, hbuf]
      exact bufGet_bufSet_ne _ hk.symm x
  · have hrx := hostStmt_rx hh
    simp only [State.RxKeptOrOpened, State.popHost_block, State.popTie_block, State.popHost_now, State.popTie_now] at hrx
    exact hrx.imp_right .inl
  · exact .inl ⟨rfl, rfl⟩

/-! The line `txd` (10_state.md R41). -/

theorem Block.txd_of_not_shift {b : Block} (h : b.phase ≠ .shift) (p : Params) (now : Nat) : b.txd p now = true := by
  unfold Block.txd
  cases hp : b.phase with
  | shift => exact absurd hp h
  | idle | settle | drain | rxwait => rfl

/-- A character of any format begins with its start bit (42_transport.md R172). -/
theorem charLevel_start (f : CharFormat) (charNs : Nat) (b : Byte) : charLevel f charNs b 0 = false := by
  simp [charLevel, lineBits]

/-- Settles O52: `txd` is driven in SHIFT alone, and a character begins with its start bit. -/
theorem txdRestsOutsideShift : Obligations.TxdRestsOutsideShift := by
  intro s
  have hheld (hr : s.rstN = false) : s.txd = true := by
    rw [State.txd, State.view_of_held hr]
    rfl
  refine ⟨fun hp => ?_, hheld, fun hr hp _ _ hstart => ?_⟩
  · cases hr : s.rstN
    · exact hheld hr
    · rw [State.txd, State.view_of_released hr]
      exact Block.txd_of_not_shift hp _ _
  · have helapsed : s.now - (s.block.tDead - s.params.charNs) = 0 := by omega
    rw [State.txd, State.view_of_released hr, Block.txd, hp]
    simp only [helapsed]
    exact charLevel_start _ _ _

end Sys2Proof.Machine
end

section
/-! The accesses of the register window: O31, O32 and O33. -/

namespace Sys2Proof.Machine

section
variable {off : Offset} {size : Nat} {s : State}

/-! Admitted and refused accesses (20_memory.md R61). -/

theorem hostRead_of_admitted (h : admitted off size = true) :
    hostRead off size s = .next (s.observe (s.view.readOffset off)) := by
  rw [hostRead, if_pos h]

theorem hostRead_of_odd (h : ¬admitted off size = true) : hostRead off size s = .fault (.busError off) := by
  rw [hostRead, if_neg h]

theorem hostWrite_of_held (h : s.rstN = false) (v : Word) : hostWrite off size v s = .next s := by
  rw [hostWrite, if_pos h]

theorem hostWrite_of_odd (hr : s.rstN = true) (h : ¬admitted off size = true) (v : Word) :
    hostWrite off size v s = .fault (.busError off) := by
  rw [hostWrite, if_neg (by simp [hr]), if_neg h]

theorem hostWrite_of_admitted (h : admitted off size = true) (v : Word) :
    hostWrite off size v s = writeOffset off v s := by
  rw [hostWrite, if_pos h]
  split
  · next hr => rw [writeOffset, if_pos hr]
  · rfl

end

/-- Settles O31: the check of width and alignment decides, and for a write reset is checked before it (log 11). -/
theorem oddAccessesAreBusErrors : Obligations.OddAccessesAreBusErrors := by
  intro s off size v
  rw [← admitted_iff]
  refine ⟨fun h => ⟨hostRead_of_odd h, fun hr => hostWrite_of_odd hr h v, fun hr => hostWrite_of_held hr v⟩,
    fun h => ?_⟩
  rw [hostRead_of_admitted h, hostWrite_of_admitted h]
  exact ⟨⟨_, rfl⟩, writeOffset_answers_next off v s⟩

/-- The register map ends at 0x40 (10_state.md R37). -/
theorem regAt_of_reserved {off : Offset} (h : 0x44 ≤ off.toNat) : regAt off = none := by
  unfold regAt
  split
  case h_18 => rfl
  all_goals omega

/-- Settles O32: no register stands at a reserved offset. -/
theorem reservedOffsetsReadZero : Obligations.ReservedOffsetsReadZero := by
  intro s off v hoff hres
  have hadm : admitted off 4 = true := (admitted_iff off 4).mpr ⟨rfl, hoff⟩
  have hreg := regAt_of_reserved hres
  constructor
  · rw [hostRead_of_admitted hadm, Block.readOffset, hreg]
    rfl
  · rw [hostWrite_of_admitted hadm, writeOffset, hreg]
    exact ite_self _

/-- A read at a register's offset observes the register (20_memory.md R63). -/
theorem hostRead_offset (r : Reg) (s : State) : hostRead r.offset 4 s = .next (s.observe (s.view.readReg r)) := by
  rw [hostRead_of_admitted (admitted_offset r), Block.readOffset, regAt_offset]

/-- Settles O33: each register is read at its place in the map of R20. -/
theorem readsHaveNoSideEffect : Obligations.ReadsHaveNoSideEffect := by
  intro s r off
  have hoff : r.offset = off := by cases r <;> rfl
  refine ⟨hoff, ?_, rfl⟩
  rw [← hoff]
  exact hostRead_offset r s

end Sys2Proof.Machine
end

section
/-! Writes to the registers: O35 and O36. -/

namespace Sys2Proof.Machine

/-! What a register reads after a write to it (20_memory.md R64). -/

/-- The low n bits of a word, by its mask. -/
theorem setWidth_extractLsb'_eq_and (v : Word) (n : Nat) (hn : n ≤ 32) :
    (v.extractLsb' 0 n).setWidth 32 = v &&& BitVec.ofNat 32 (2 ^ n - 1) := by
  have hpow : 2 ^ n ≤ 2 ^ 32 := Nat.pow_le_pow_right (by decide) hn
  have hpos : 0 < 2 ^ n := Nat.two_pow_pos n
  apply BitVec.eq_of_toNat_eq
  rw [BitVec.toNat_and, BitVec.toNat_ofNat, Nat.mod_eq_of_lt (a := 2 ^ n - 1) (by omega),
    Nat.and_two_pow_sub_one_eq_mod, BitVec.toNat_setWidth, BitVec.extractLsb'_toNat, Nat.shiftRight_zero]
  exact Nat.mod_eq_of_lt (lt_of_lt_of_le (Nat.mod_lt _ hpos) hpow)

theorem ofLanes_lanes (v : Word) : ofLanes (lane v 0) (lane v 1) (lane v 2) (lane v 3) = v := by
  have h3 : v.extractLsb' 24 8 ++ v.extractLsb' 16 8 = v.extractLsb' 16 16 :=
    BitVec.extractLsb'_append_extractLsb'_eq_extractLsb' rfl
  have h2 : v.extractLsb' 16 16 ++ v.extractLsb' 8 8 = v.extractLsb' 8 24 :=
    BitVec.extractLsb'_append_extractLsb'_eq_extractLsb' rfl
  have h1 : v.extractLsb' 8 24 ++ v.extractLsb' 0 8 = v.extractLsb' 0 32 :=
    BitVec.extractLsb'_append_extractLsb'_eq_extractLsb' rfl
  show v.extractLsb' 24 8 ++ v.extractLsb' 16 8 ++ v.extractLsb' 8 8 ++ v.extractLsb' 0 8 = v
  rw [h3, h2, h1, BitVec.extractLsb'_eq_self]

/-- A word with its two upper lanes cleared. -/
theorem ofLanes_low_lanes (v : Word) : ofLanes (lane v 0) (lane v 1) 0 0 = v &&& 0x0000FFFF := by
  have kept (x : Byte) : x &&& 0xFF#8 = x := BitVec.and_allOnes
  rw [← ofLanes_lanes (v &&& 0x0000FFFF)]
  simp [lane, BitVec.extractLsb'_and, kept]

theorem bufWord0_bufWithWord0 (b : Buf) (v : Word) : bufWord0 (bufWithWord0 b v) = v := by
  simp [bufWord0, bufWithWord0, bufGet_bufOf, ofLanes_lanes]

theorem bufWord1_bufWithWord1 (b : Buf) (v : Word) : bufWord1 (bufWithWord1 b v) = v := by
  simp [bufWord1, bufWithWord1, bufGet_bufOf, ofLanes_lanes]

theorem ctrlWord_writeCtrl {b : Block} (h : b.busy = false) (v : Word) :
    (b.writeCtrl v).ctrlWord = v &&& 0x00000003 := by
  have bits (i : Nat) (hi : i < 32) :
      (0#30 ++ bit (v.getLsbD 1) ++ bit (v.getLsbD 0)).getLsbD i = (v &&& 0x00000003#32).getLsbD i := by
    interval_cases i <;> simp [-Nat.reduceAdd, bit, BitVec.getElem_append]
  simpa [Block.ctrlWord, h] using BitVec.eq_of_getLsbD_eq bits

/-- The W1C bits of v are cleared, whatever the rest of STATUS holds. -/
theorem statusWord_writeStatus (b : Block) (v : Word) :
    (b.writeStatus v).statusWord = b.statusWord &&& ~~~(v &&& 0x00000182) := by
  have layout (p : BitVec 3) (n : BitVec 4) (w d r f x y : Bool) (c : BitVec 3) (i : Nat) (hi : i < 32) :
      (0#13 ++ p ++ n ++ 0#3 ++ bit (w && !v.getLsbD 8) ++ bit (d && !v.getLsbD 7) ++ bit r ++ bit f ++ c
          ++ bit (x && !v.getLsbD 1) ++ bit y).getLsbD i
        = ((0#13 ++ p ++ n ++ 0#3 ++ bit w ++ bit d ++ bit r ++ bit f ++ c ++ bit x ++ bit y)
            &&& ~~~(v &&& 0x00000182#32)).getLsbD i := by
    interval_cases i <;> simp [-Nat.reduceAdd, bit, BitVec.getElem_append]
  exact BitVec.eq_of_getLsbD_eq (layout _ _ _ _ _ _ _ _ _)

theorem Block.guarded_of_not_busy {b : Block} (h : b.busy = false) (w : Block → Block) : b.guarded w = w b := by
  simp [Block.guarded, h]

theorem Block.guarded_of_busy {b : Block} (h : b.busy = true) (w : Block → Block) : b.guarded w = b.markBusyWr := by
  simp [Block.guarded, h]

/-- A write is read back in its own register alone: what any other register shows, it leaves. (`simp at hq` ends the
case q = r.) -/
theorem readReg_writeReg_ne {b : Block} (h : b.busy = false) {r q : Reg} (hq : q ≠ r) (v : Word) :
    (b.writeReg r v).readReg q = b.readReg q := by
  cases r
  case cmd | crc | rxb0 | rxb1 | rxf0 | rxf1 | rxinfo => rfl
  case ctrl | status | txf0 | txf1 | txb0 | txb1 | txlen | tSettle | tDrain | tRxto =>
    simp only [Block.writeReg, Block.guarded_of_not_busy h]
    cases q <;> simp at hq <;> rfl

/-- With reset released, a write at a register's offset is the write of the register (20_memory.md R64). -/
theorem hostWrite_offset {s : State} (hr : s.rstN = true) {r : Reg} (hne : r ≠ .cmd) (v : Word) :
    hostWrite r.offset 4 v s = .next (s.mapBlock fun b => b.writeReg r v) := by
  rw [hostWrite_of_admitted (admitted_offset r), writeOffset, if_neg (by simp [hr]), regAt_offset]
  cases r
  case cmd => exact absurd rfl hne
  all_goals rfl

/-- Settles O35: the register written reads the writable bits of v, and any other reads as before. -/
theorem writeThenReadBack : Obligations.WriteThenReadBack := by
  intro s r q v hready hne
  obtain ⟨hr, hb⟩ := s.ready_iff.mp hready
  refine ⟨_, hostWrite_offset hr hne v, ?_⟩
  rw [State.mapBlock_block]
  split
  · next hq => exact readReg_writeReg_ne hb hq v
  · next hq =>
    obtain rfl := not_not.mp hq
    cases q
    case cmd | crc | rxb0 | rxb1 | rxf0 | rxf1 | rxinfo => rfl
    case ctrl => exact ctrlWord_writeCtrl hb v
    case status => exact statusWord_writeStatus s.block v
    all_goals simp only [Block.writeReg, Block.guarded_of_not_busy hb]
    case txf0 => exact ofLanes_lanes v
    case txf1 => exact ofLanes_low_lanes v
    case txb0 => exact bufWord0_bufWithWord0 s.block.txbuf v
    case txb1 => exact bufWord1_bufWithWord1 s.block.txbuf v
    case txlen => exact setWidth_extractLsb'_eq_and v 4 (by decide)
    case tSettle | tDrain | tRxto => exact setWidth_extractLsb'_eq_and v 24 (by decide)

/-! Writes while BUSY (20_memory.md R65). -/

section
variable {s t : State}

/-- A write to CMD is `command_write` of the word (20_memory.md R64). -/
theorem hostWrite_cmd (hr : s.rstN = true) (v : Word) : hostWrite Reg.cmd.offset 4 v s = commandWrite v s := by
  rw [hostWrite_of_admitted (admitted_offset .cmd), writeOffset, if_neg (by simp [hr]), regAt_offset]

theorem commandWrite_of_busy (hr : s.rstN = true) (hb : s.block.busy = true) (v : Word) :
    commandWrite v s = .next (s.mapBlock Block.markBusyWr) := by
  unfold commandWrite
  split
  · next i _ =>
    obtain ⟨l, f, he, -⟩ := exec_eq_command i s
    rw [he, command_of_busy hr hb]
  · rw [command_of_busy hr hb]

/-- What a running command must find unchanged: operands, timing and PORT_EN (20_memory.md R65). -/
def Block.operands (b : Block) : TxFields × Buf × BitVec 4 × BitVec 24 × BitVec 24 × BitVec 24 × Bool :=
  (b.txf, b.txbuf, b.txlen, b.tSettle, b.tDrain, b.tRxto, b.portEn)

theorem Block.operands_writeReg_of_busy {b : Block} (h : b.busy = true) (r : Reg) (v : Word) :
    (b.writeReg r v).operands = b.operands := by
  obtain heq | heq | heq | ⟨w, heq, -⟩ := b.writeReg_cases r v <;> rw [heq]
  · simp [Block.operands, h]
  · rfl
  · rw [Block.guarded_of_busy h]
    rfl

theorem hostWrite_operands (hb : s.block.busy = true) {off : Offset} {size : Nat} {v : Word}
    (h : hostWrite off size v s = .next t) : t.block.operands = s.block.operands := by
  obtain rfl | ⟨hr, -, hc⟩ | ⟨-, r, -, -, rfl⟩ := hostWrite_next h
  · rfl
  · cases (commandWrite_of_busy hr hb v).symm.trans hc
    rfl
  · exact Block.operands_writeReg_of_busy hb r v

theorem hostStmt_operands (hb : s.block.busy = true) {c : HostStmt} (h : hostStmt c s = .next t) :
    t.block.operands = s.block.operands := by
  obtain ⟨_, _, _, -, hw⟩ | ⟨v, rfl⟩ | ⟨v, rfl⟩ | rfl := hostStmt_next h
  · exact hostWrite_operands hb hw
  all_goals rfl

theorem finishXact_operands (v : CrcVariant) (b : Block) : (b.finishXact v).operands = b.operands := by
  unfold Block.finishXact
  split
  · rfl
  · dsimp only
    split <;> rfl

theorem closeRx_operands (h : closeRx s = .next t) : t.block.operands = s.block.operands := by
  obtain ⟨-, rfl⟩ | ⟨-, rfl⟩ := closeRx_next h
  · rfl
  · exact finishXact_operands _ s.block

theorem engineStep_operands (h : engineStep s = .next t) : t.block.operands = s.block.operands := by
  obtain ⟨-, rfl⟩ | ⟨-, rfl⟩ | ⟨-, hd⟩ | ⟨-, hc⟩ := engineStep_next h
  · rfl
  · unfold endChar
    split <;> rfl
  · obtain ⟨-, rfl⟩ | ⟨-, rfl⟩ | ⟨-, rfl⟩ := endDrain_next hd <;> rfl
  · exact closeRx_operands hc

theorem rxChar_operands {x : Byte} (h : rxChar x s = .next t) : t.block.operands = s.block.operands := by
  obtain ⟨-, rfl⟩ | ⟨-, -, rfl⟩ | ⟨-, -, hc⟩ := rxChar_next h
  · rfl
  · rfl
  · exact (closeRx_operands hc).trans rfl

theorem deliver_operands {c : Option Byte} (h : deliver c s = .next t) : t.block.operands = s.block.operands := by
  obtain ⟨-, rfl⟩ | ⟨-, x, -, hx⟩ | ⟨-, -, hx⟩ := deliver_next h
  · rfl
  · exact rxChar_operands hx
  · exact (rxChar_operands hx).trans rfl

/-- While a command runs, no step but a reset touches its operands: host writes are ignored, and the Engine and the
receiver write none of them. -/
theorem step_operands (hb : s.block.busy = true) (h : step s = .next t) (hr : t.rstN = true) :
    t.block.operands = s.block.operands := by
  obtain ⟨u, rfl, hu⟩ := step_cases h
  rw [noteLines_block]
  obtain ⟨e, -, -, -, rfl⟩ | ⟨-, -, he⟩ | ⟨-, -, tie, c, -, -, -, hd⟩ | ⟨-, -, -, tie, c, -, -, hh⟩
    | ⟨-, -, -, -, v, -, rfl⟩ := hu
  · cases hl : e.level with
    | true => rfl
    | false => simp [hl, State.setRst] at hr
  · exact engineStep_operands he
  · simpa using deliver_operands hd
  · simpa using hostStmt_operands (by simpa using hb) hh
  · rfl

end

/-- Settles O36: a write finds its register guarded by BUSY, and no agent changes the operands while a command runs. -/
theorem busyWritesAreIgnored : Obligations.BusyWritesAreIgnored := by
  constructor
  · intro s v hr hb
    refine ⟨fun r hreg => ?_, ?_, hostWrite_offset hr (r := .status) (by decide) v⟩
    · obtain rfl | hreg := hreg
      · rw [hostWrite_cmd hr, commandWrite_of_busy hr hb]
        rfl
      · have hguard : ∃ w, s.block.writeReg r v = s.block.guarded w := by
          obtain rfl | rfl | rfl | rfl | rfl | rfl | rfl | rfl := hreg <;> exact ⟨_, rfl⟩
        obtain ⟨w, hw⟩ := hguard
        have hne : r ≠ .cmd := by rintro rfl; simp at hreg
        rw [hostWrite_offset hr hne, State.mapBlock, hw, Block.guarded_of_busy hb]
        rfl
    · rw [hostWrite_offset hr (by decide), State.mapBlock]
      simp [Block.writeReg, Block.writeCtrl, hb]
  · intro s t _ hb h hr
    simpa [Block.operands] using step_operands hb h hr

end Sys2Proof.Machine
end

section
/-! The command word: O2, O3, O4 and O1. -/

namespace Sys2Proof

open Laws.WordFields

section
variable {v : Word} {i : Instr}

/-! What the decoder accepts (30_encoding.md R94, R95). -/

theorem plainCommand_ok_iff {j : Instr} :
    plainCommand v j = .ok i ↔ byteField v = 0 ∧ lengthField v = 0 ∧ j = i := by
  unfold plainCommand
  split <;> [skip; split] <;> simp_all

theorem byteCommand_ok_iff {f : Byte → Instr} : byteCommand v f = .ok i ↔ lengthField v = 0 ∧ f (byteField v) = i := by
  unfold byteCommand
  split <;> simp_all

theorem lengthCommand_ok_iff {r : BitVec 4 → Bool} {f : BitVec 4 → Instr} :
    lengthCommand v r f = .ok i ↔ byteField v = 0 ∧ r (lengthField v) = true ∧ f (lengthField v) = i := by
  unfold lengthCommand
  split <;> [skip; split] <;> simp_all

theorem decodeWord_ok_iff_decodeOp :
    decodeWord v = .ok i ↔ lowZeroField v = 0 ∧ highZeroField v = 0 ∧ decodeOp v = .ok i := by
  unfold decodeWord
  split <;> [skip; split] <;> simp_all

theorem countLegal_iff {n : BitVec 4} : countLegal n = true ↔ 1 ≤ n.toNat ∧ n.toNat ≤ 8 := by
  simp [countLegal, BitVec.le_def]

/-- The word v has the OP of i, i's operand in its field, 0 in the field i does not use, and i's operand is in range. -/
def Instr.FillsFields (i : Instr) (v : Word) : Prop :=
  opField v = opNumber i ∧ byteField v = byteOperand i ∧ lengthField v = lengthOperand i ∧ i.wf = true

/-- The opcode map gives i exactly on the words whose OP, BYTE and N are those of i (30_encoding.md R91 to R94). -/
theorem decodeOp_ok_iff : decodeOp v = .ok i ↔ i.FillsFields v := by
  constructor
  · intro h
    unfold decodeOp at h
    split at h
    case h_10 => cases h
    case h_2 hop =>
      obtain ⟨hn, rfl⟩ := byteCommand_ok_iff.mp h
      exact ⟨BitVec.eq_of_toNat_eq hop, rfl, hn, rfl⟩
    case h_3 hop | h_4 hop =>
      obtain ⟨hb, hr, rfl⟩ := lengthCommand_ok_iff.mp h
      exact ⟨BitVec.eq_of_toNat_eq hop, hb, rfl, hr⟩
    case h_7 hop =>
      obtain ⟨hb, hr, rfl⟩ := lengthCommand_ok_iff.mp h
      exact ⟨BitVec.eq_of_toNat_eq hop, hb, rfl, decide_eq_true (countLegal_iff.mp hr)⟩
    all_goals
      next hop =>
      obtain ⟨hb, hn, rfl⟩ := plainCommand_ok_iff.mp h
      exact ⟨BitVec.eq_of_toNat_eq hop, hb, hn, rfl⟩
  · rintro ⟨hop, hb, hn, hwf⟩
    have h : (opField v).toNat = (opNumber i).toNat := congrArg BitVec.toNat hop
    unfold decodeOp
    rw [h]
    cases i
    case crcFeed b => exact byteCommand_ok_iff.mpr ⟨hn, congrArg Instr.crcFeed hb⟩
    case encode n => exact lengthCommand_ok_iff.mpr ⟨hb, hn ▸ hwf, congrArg Instr.encode hn⟩
    case decode l => exact lengthCommand_ok_iff.mpr ⟨hb, hn ▸ hwf, congrArg Instr.decode hn⟩
    case receive n =>
      exact lengthCommand_ok_iff.mpr ⟨hb, countLegal_iff.mpr (hn ▸ of_decide_eq_true hwf), congrArg Instr.receive hn⟩
    all_goals exact plainCommand_ok_iff.mpr ⟨hb, hn, rfl⟩

theorem decodeWord_ok_iff :
    decodeWord v = .ok i ↔ lowZeroField v = 0 ∧ highZeroField v = 0 ∧ i.FillsFields v := by
  rw [decodeWord_ok_iff_decodeOp, decodeOp_ok_iff]

/-! The word of a command (30_encoding.md R90, R100). -/

theorem encodeWord_eq_commandWord (i : Instr) :
    encodeWord i = commandWord (opNumber i) (byteOperand i) (lengthOperand i) := by
  cases i <;> rfl

/-- A word whose must-be-zero bits are 0 is the word of its other three fields. -/
theorem commandWord_fields (hl : lowZeroField v = 0) (hh : highZeroField v = 0) :
    commandWord (opField v) (byteField v) (lengthField v) = v := by
  have hl := congrArg BitVec.toNat hl
  have hh := congrArg BitVec.toNat hh
  apply BitVec.eq_of_toNat_eq
  simp only [lowZeroField, highZeroField, opField, byteField, lengthField, commandWord_toNat, BitVec.extractLsb'_toNat,
    Nat.shiftRight_eq_div_pow, BitVec.ofNat_eq_ofNat, BitVec.toNat_ofNat] at hl hh ⊢
  omega

/-! The legality rule (30_encoding.md R94). -/

theorem legal_iff :
    legal v = true ↔
      lowZeroField v = 0 ∧ highZeroField v = 0
        ∧ (1 ≤ (opField v).toNat ∧ (opField v).toNat ≤ 9)
        ∧ (opField v = 2 ∨ byteField v = 0)
        ∧ ((opField v = 3 ∨ opField v = 4 ∨ opField v = 7) ∨ lengthField v = 0)
        ∧ (opField v = 3 → lengthField v = 2 ∨ lengthField v = 3 ∨ lengthField v = 4)
        ∧ (opField v = 4 → lengthField v = 6 ∨ lengthField v = 7 ∨ lengthField v = 8)
        ∧ (opField v = 7 → 1 ≤ (lengthField v).toNat ∧ (lengthField v).toNat ≤ 8) := by
  simp only [legal, dataLenLegal, totalLenLegal, Bool.and_eq_true, Bool.or_eq_true, beq_iff_eq, bne_iff_ne, ne_eq,
    decide_eq_true_eq, BitVec.le_def, countLegal_iff, and_assoc, or_assoc, imp_iff_not_or]
  rfl

/-- The decoder accepts exactly the words that `legal` admits: with the must-be-zero bits 0, each OP leaves of the other
clauses those of its own command. -/
theorem exists_decodeWord_ok_iff_legal : (∃ i, decodeWord v = .ok i) ↔ legal v = true := by
  simp only [decodeWord_ok_iff_decodeOp, exists_and_left]
  unfold decodeOp
  split
  case h_10 =>
    refine iff_of_false (by simp) fun h => ?_
    obtain ⟨-, -, ⟨hlo, hhi⟩, -⟩ := legal_iff.mp h
    interval_cases (opField v).toNat <;> contradiction
  all_goals
    next hop =>
    obtain ⟨-, hop⟩ := BitVec.toNat_eq_nat.mp hop
    simp [legal, hop, plainCommand_ok_iff, byteCommand_ok_iff, lengthCommand_ok_iff, and_assoc]

end

/-- Settles O2: the fields of the encoded word are i's own, and the decoder accepts exactly such words. -/
theorem decodeOfEncode : Obligations.DecodeOfEncode := by
  intro i hwf
  obtain ⟨hop, hb, hn, hl, hh⟩ := of_commandWord (encodeWord_eq_commandWord i)
  exact decodeWord_ok_iff.mpr ⟨hl, hh, hop, hb, hn, hwf⟩

/-- Settles O3: an accepted word has i's fields and zeros elsewhere, and a word is put together from its fields in one
way. -/
theorem encodeOfDecode : Obligations.EncodeOfDecode := by
  intro v i h
  obtain ⟨hl, hh, hop, hb, hn, hwf⟩ := decodeWord_ok_iff.mp h
  refine ⟨hwf, ?_⟩
  rw [encodeWord_eq_commandWord, ← hop, ← hb, ← hn]
  exact commandWord_fields hl hh

/-- Settles O1: each word is decoded by evaluation. -/
theorem tableWordsDecode : Obligations.TableWordsDecode :=
  ⟨rfl, rfl, rfl, rfl, rfl, rfl, rfl, rfl, rfl, rfl, rfl, rfl, rfl, rfl, rfl, rfl⟩

end Sys2Proof
end

section
/-! SEND's check of TXLEN and the step that runs a decoded command: O4 and O42. -/

namespace Sys2Proof.Machine

theorem txlenLegal_iff {n : BitVec 4} : txlenLegal n = true ↔ 1 ≤ n.toNat ∧ n.toNat ≤ 8 := by
  simp [txlenLegal, BitVec.le_def]

section
variable {s : State}

/-- SEND finds a TXLEN outside 1 to 8 at acceptance and completes with ILLEGAL_CMD (42_transport.md R174). -/
theorem exec_send_of_illegal_txlen (h : s.ready = true) (hlen : ¬(1 ≤ s.block.txlen.toNat ∧ s.block.txlen.toNat ≤ 8)) :
    exec .send s = .next (s.mapBlock fun b => b.accept.complete .illegalCmd) := by
  have hbody : doSend (s.mapBlock Block.accept) = (s.mapBlock Block.accept).mapBlock (Block.complete .illegalCmd) :=
    if_neg (mt txlenLegal_iff.mp hlen)
  rw [exec, execSend, command_of_legal h, hbody]
  rfl

/-- A write to CMD of a word that decodes runs its command (30_encoding.md R95). -/
theorem hostWrite_of_decoded {v : Word} {i : Instr} (hn : s.rstN = true) (hi : decodeWord v = .ok i) :
    hostWrite Reg.cmd.offset 4 v s = exec i s := by
  rw [hostWrite_cmd hn, commandWrite, hi]

/-- With nothing else due, a step runs the decoded command of a CMD write at the head of the host program, on the state
without that statement (30_encoding.md R95). -/
theorem step_of_decoded_write {v : Word} {rest : List HostStmt} {i : Instr}
    (hc : s.env.host = .wr Reg.cmd.offset 4 v :: rest) (hi : decodeWord v = .ok i) (hn : s.rstN = true)
    (hr : s.resetDue = false) (he : s.engineDue = false) (hb : s.busDue = false) :
    step s = noteOutcome s (exec i { s with env := { s.env with host := rest } }) := by
  rw [step_of_hostReady hr he (.inl hb) hc (by simp [State.hostReady, hc]), hb, hostStmt]
  exact congrArg (noteOutcome s) (hostWrite_of_decoded hn hi)

theorem State.withFetchWord_of_no_busDue (hb : s.busDue = false) (v : Word) :
    s.withFetchWord 32 v.toNat = { s with env := { s.env with host := .wr Reg.cmd.offset 4 v :: s.env.host } } := by
  rw [State.withFetchWord, Nat.mod_eq_of_lt v.isLt, BitVec.ofNat_toNat, BitVec.setWidth_eq, placeCommand, hb]
  rfl

/-- A word that decodes, placed with `withFetchWord`, is what the very next step runs (log 2). -/
theorem step_withFetchWord {v : Word} {i : Instr} (hi : decodeWord v = .ok i) (hn : s.rstN = true)
    (hr : s.resetDue = false) (he : s.engineDue = false) (hb : s.busDue = false) :
    step (s.withFetchWord 32 v.toNat) = noteOutcome s (exec i s) := by
  rw [State.withFetchWord_of_no_busDue hb]
  exact step_of_decoded_write rfl hi hn hr he hb

end

theorem noteOutcome_exec (i : Instr) (s t : State) :
    ∃ u, exec i t = .next u ∧ noteOutcome s (exec i t) = .next (noteLines s u) := by
  obtain ⟨u, hu⟩ := exec_answers_next i t
  exact ⟨u, hu, congrArg (noteOutcome s) hu⟩

/-- Settles O4: the decoder agrees with `legal`, and SEND with a bad TXLEN completes as an illegal word does. -/
theorem legalWordsAreTheAcceptedOnes : Obligations.LegalWordsAreTheAcceptedOnes := by
  refine ⟨fun v => exists_decodeWord_ok_iff_legal.trans legal_iff, fun s h hlen => ?_⟩
  exact ⟨_, exec_send_of_illegal_txlen h hlen, rfl, rfl⟩

/-- Settles O42: the step takes the CMD write, which the decoder turns into `exec i`; and `withFetchWord` makes such a
write the head of the program. -/
theorem stepRunsTheDecodedCommand : Obligations.StepRunsTheDecodedCommand := by
  refine ⟨fun s v rest i hc hi hn hr he hb => ?_, fun s v i hi hn hr he hb => ?_⟩
  · rw [step_of_decoded_write hc hi hn hr he hb]
    exact noteOutcome_exec i s _
  · rw [step_withFetchWord hi hn hr he hb]
    exact noteOutcome_exec i s s

end Sys2Proof.Machine
end

section
/-! The CRC generator's algebra (40_crc.md R120, R125, R126): O9, O10 and O8. The bit step at the default of CRC_VARIANT is
linear over XOR and kills no accumulator but 0; everything else follows from these two facts. -/

namespace Sys2Proof.Machine

/-! The bit step (40_crc.md R120). -/

theorem crcBit_of_even {c : Half} (h : c.getLsbD 0 = false) : crcBit c = c >>> 1 := by
  rw [crcBit, if_neg (Bool.eq_false_iff.mp h)]

theorem crcBit_of_odd {c : Half} (h : c.getLsbD 0 = true) : crcBit c = (c >>> 1) ^^^ crcPoly := by
  rw [crcBit, if_pos h]

theorem crcBit_xor (c d : Half) : crcBit (c ^^^ d) = crcBit c ^^^ crcBit d := by
  unfold crcBit
  rw [BitVec.getLsbD_xor, BitVec.ushiftRight_xor_distrib]
  cases c.getLsbD 0 <;> cases d.getLsbD 0
  · rfl
  · exact BitVec.xor_assoc ..
  · show c >>> 1 ^^^ d >>> 1 ^^^ crcPoly = c >>> 1 ^^^ crcPoly ^^^ d >>> 1
    ac_rfl
  · have hcancel : c >>> 1 ^^^ crcPoly ^^^ (d >>> 1 ^^^ crcPoly) = c >>> 1 ^^^ d >>> 1 ^^^ (crcPoly ^^^ crcPoly) := by
      ac_rfl
    exact (hcancel.trans (by simp)).symm

/-- The constant has its top bit set, which a shifted accumulator never has, so a bit step never cancels to 0. -/
theorem eq_zero_of_crcBit_eq_zero {c : Half} (h : crcBit c = 0) : c = 0 := by
  cases hodd : c.getLsbD 0
  · rw [crcBit_of_even hodd] at h
    refine BitVec.eq_of_getLsbD_eq fun i _ => ?_
    cases i with
    | zero => simpa using hodd
    | succ i => simpa [Nat.add_comm 1 i] using congrArg (BitVec.getLsbD · i) h
  · rw [crcBit_of_odd hodd] at h
    simpa [crcPoly] using congrArg (BitVec.getLsbD · 15) h

theorem crcBits_xor (n : Nat) (c d : Half) : crcBits n (c ^^^ d) = crcBits n c ^^^ crcBits n d := by
  induction n generalizing c d with
  | zero => rfl
  | succ n ih => simp only [crcBits, crcBit_xor, ih]

theorem crcBits_eq_zero_iff (n : Nat) (c : Half) : crcBits n c = 0 ↔ c = 0 := by
  induction n generalizing c with
  | zero => rfl
  | succ n ih => exact (ih _).trans ⟨eq_zero_of_crcBit_eq_zero, fun h => by rw [h]; rfl⟩

theorem crcBits_injective (n : Nat) : Function.Injective (crcBits n) := by
  intro c d h
  have hzero : crcBits n (c ^^^ d) = 0 := by rw [crcBits_xor, h, BitVec.xor_self]; rfl
  exact BitVec.xor_eq_zero_iff.mp ((crcBits_eq_zero_iff n _).mp hzero)

theorem crcBits_add (m n : Nat) (c : Half) : crcBits (m + n) c = crcBits n (crcBits m c) := by
  induction m generalizing c with
  | zero => rw [Nat.zero_add]; rfl
  | succ m ih => rw [Nat.succ_add]; exact ih (crcBit c)

/-- Steps that shift out only zeros never bring in the constant. -/
theorem crcBits_of_low_bits_zero {n : Nat} {c : Half} (h : ∀ i < n, c.getLsbD i = false) : crcBits n c = c >>> n := by
  induction n generalizing c with
  | zero => rfl
  | succ n ih =>
    have hrest (i : Nat) (hi : i < n) : (c >>> 1).getLsbD i = false := by
      rw [BitVec.getLsbD_ushiftRight]
      exact h _ (by omega)
    rw [crcBits, crcBit_of_even (h 0 n.succ_pos), ih hrest, ← BitVec.shiftRight_add, Nat.add_comm]

/-! The byte step (40_crc.md R120, R126). -/

theorem crcUpdate_modbus (c : Half) (b : Byte) : crcUpdate .modbus c b = crcBits 8 (c ^^^ b.setWidth 16) := rfl

theorem crcUpdate_injective_left (b : Byte) : Function.Injective fun c : Half => crcUpdate .modbus c b :=
  fun _ _ h => (BitVec.xor_left_inj _).mp (crcBits_injective 8 h)

theorem crcUpdate_injective_right (c : Half) : Function.Injective fun b : Byte => crcUpdate .modbus c b := by
  intro a b h
  have hwide : a.setWidth 16 = b.setWidth 16 := (BitVec.xor_right_inj c).mp (crcBits_injective 8 h)
  simpa using congrArg (BitVec.setWidth 8) hwide

theorem crcFold_injective (xs : List Byte) : Function.Injective fun c : Half => crcFold .modbus c xs := by
  induction xs with
  | nil => exact Function.injective_id
  | cons x xs ih => exact ih.comp (crcUpdate_injective_left x)

/-- A list's CRC tells apart the values of any one of its bytes. -/
theorem crc16_injective_at (xs ys : List Byte) : Function.Injective fun b : Byte => crc16 .modbus (xs ++ [b] ++ ys) := by
  intro a b h
  simp only [crc16_modbus_append] at h
  exact crcUpdate_injective_right _ (crcFold_injective ys h)

/-- Settles O9: the byte step is injective in the accumulator and in the byte, the fold is injective in its start, and a
flipped bit makes another byte. -/
theorem crcUpdateLaws : Obligations.CrcUpdateLaws := by
  refine ⟨fun b => Finite.injective_iff_bijective.mp (crcUpdate_injective_left b), fun c b => ?_,
    fun xs ys b k hk h => ?_⟩
  · simp [crcUpdate_modbus]
  · have hsame : b ^^^ BitVec.twoPow 8 k = b := crc16_injective_at xs ys h
    have hbit := congrArg (BitVec.getLsbD · k) hsame
    simp [hk] at hbit

/-! The residue (40_crc.md R125). -/

theorem append_eq_xor {m n : Nat} (x : BitVec m) (y : BitVec n) : x ++ y = y.setWidth (m + n) ^^^ (x ++ 0#n) := by
  ext i hi
  by_cases hlow : i < n
  · simp [BitVec.getElem_append, hlow]
  · simp [BitVec.getElem_append, hlow, BitVec.getLsbD_of_ge y i (not_lt.mp hlow)]

theorem append_zero_ushiftRight {m n : Nat} (x : BitVec m) : (x ++ 0#n) >>> n = x.setWidth (m + n) := by
  ext i hi
  simp [BitVec.getLsbD_append]

/-- Two byte steps take in the byte pair as one 16-bit word: the high byte may be brought in eight bit steps early, in the
upper half, from where those steps only shift it down. -/
theorem crcUpdate_crcUpdate (c : Half) (lo hi : Byte) :
    crcUpdate .modbus (crcUpdate .modbus c lo) hi = crcBits 16 (c ^^^ (hi ++ lo)) := by
  have hzeros (i : Nat) (h : i < 8) : (hi ++ 0#8 : BitVec (8 + 8)).getLsbD i = false := by
    simp [-Nat.reduceAdd, BitVec.getLsbD_append, h]
  have hhigh : crcBits 8 (hi ++ 0#8) = hi.setWidth 16 :=
    (crcBits_of_low_bits_zero hzeros).trans (append_zero_ushiftRight hi)
  have hpair : (hi ++ lo : Half) = lo.setWidth 16 ^^^ (hi ++ 0#8) := append_eq_xor hi lo
  calc crcUpdate .modbus (crcUpdate .modbus c lo) hi
      = crcBits 8 (crcBits 8 (c ^^^ lo.setWidth 16) ^^^ crcBits 8 (hi ++ 0#8)) := by rw [hhigh]; rfl
    _ = crcBits 8 (crcBits 8 (c ^^^ (hi ++ lo))) := by rw [← crcBits_xor, hpair, BitVec.xor_assoc]
    _ = crcBits 16 (c ^^^ (hi ++ lo)) := (crcBits_add 8 8 _).symm

theorem crc16_append_pair_eq_zero_iff (xs : List Byte) (lo hi : Byte) :
    crc16 .modbus (xs ++ [lo, hi]) = 0 ↔ (hi ++ lo : Half) = crc16 .modbus xs := by
  have hpair : crc16 .modbus (xs ++ [lo, hi]) = crcBits 16 (crc16 .modbus xs ^^^ (hi ++ lo)) :=
    (crc16_modbus_append xs [lo, hi]).trans (crcUpdate_crcUpdate _ lo hi)
  rw [hpair, crcBits_eq_zero_iff]
  exact BitVec.xor_eq_zero_iff.trans eq_comm

/-- Settles O10: the residue is 0 exactly when the byte pair is the CRC, and the two bytes of a CRC put together give
it. -/
theorem crcResidueIsZero : Obligations.CrcResidueIsZero := by
  refine ⟨fun xs => ?_, crc16_append_pair_eq_zero_iff, fun f => ?_⟩
  · exact (crc16_append_pair_eq_zero_iff xs _ _).mpr (crc_of_bytes _)
  · rw [encodeBytes, crc16_append_pair_eq_zero_iff, crc_of_bytes, validateFrame, beq_iff_eq]
    exact eq_comm

/-- Settles O8: `crc16` is the fold alone, and a fold takes the last byte last. -/
theorem crcFoldsInListOrder : Obligations.CrcFoldsInListOrder :=
  ⟨rfl, fun xs b => crc16_modbus_append xs [b]⟩

end Sys2Proof.Machine
end

section
/-! The generator's commands CRC_INIT and CRC_FEED (40_crc.md R123, R124): O12 and O11. -/

namespace Sys2Proof.Machine

open Laws.WordFields

/-- The state with c in CRC and the command completed, all else unchanged: what a generator command leaves (40_crc.md
R123, R124). -/
def State.completeWithCrc (c : Half) (s : State) : State := s.mapBlock fun b => (b.setCrc c).complete .ok

section
variable {s : State} {v : Word} {i : Instr}

/-! The words (30_encoding.md R91, R94). -/

theorem encodeWord_crcFeed (b : Byte) : encodeWord (.crcFeed b) = 0x00000002 ||| (b.setWidth 32 <<< 8) := by
  have hshift : (b.setWidth 32 <<< 8).toNat = b.toNat <<< 8 := by
    rw [BitVec.toNat_shiftLeft, BitVec.toNat_setWidth, Nat.shiftLeft_eq, Nat.shiftLeft_eq]
    omega
  apply BitVec.eq_of_toNat_eq
  rw [encodeWord, commandWord_toNat, BitVec.or_comm, BitVec.toNat_or, hshift,
    ← Nat.shiftLeft_add_eq_or_of_lt (by decide), Nat.shiftLeft_eq]
  simp [Nat.add_comm]

theorem eq_crcInit_of_opNumber (h : opNumber i = 1) : i = .crcInit := by
  cases i
  case crcInit => rfl
  all_goals simp [opNumber] at h

theorem eq_crcFeed_of_opNumber (h : opNumber i = 2) : ∃ b, i = .crcFeed b := by
  cases i
  case crcFeed b => exact ⟨b, rfl⟩
  all_goals simp [opNumber] at h

theorem eq_of_decodeWord_crcInit_op (hop : opField v = 1) (h : decodeWord v = .ok i) : v = 0x00000001 := by
  obtain ⟨-, -, hi, -⟩ := decodeWord_ok_iff.mp h
  obtain rfl := eq_crcInit_of_opNumber (hi.symm.trans hop)
  obtain ⟨-, hword⟩ := encodeOfDecode v _ h
  exact hword.symm

/-- An accepted word of OP 2 carries nothing but OP and BYTE. -/
theorem zeros_of_decodeWord_crcFeed_op (hop : opField v = 2) (h : decodeWord v = .ok i) :
    v.extractLsb' 4 4 = 0 ∧ v.extractLsb' 16 16 = 0 := by
  obtain ⟨hlow, hhigh, hi, -, hlen, -⟩ := decodeWord_ok_iff.mp h
  obtain ⟨b, rfl⟩ := eq_crcFeed_of_opNumber (hi.symm.trans hop)
  have hupper : highZeroField v ++ lengthField v = v.extractLsb' 16 16 :=
    BitVec.extractLsb'_append_extractLsb'_eq_extractLsb' rfl
  refine ⟨hlow, ?_⟩
  rw [← hupper, hhigh, hlen]
  exact BitVec.zero_append_zero

/-! Refused and illegal commands (30_encoding.md R95). -/

theorem exec_of_busy (hr : s.rstN = true) (hb : s.block.busy = true) (i : Instr) :
    exec i s = .next (s.mapBlock Block.markBusyWr) := by
  obtain ⟨l, f, he, -⟩ := exec_eq_command i s
  rw [he, command_of_busy hr hb]

theorem hostWrite_of_not_decoded (h : s.ready = true) (hv : ∀ i, decodeWord v ≠ .ok i) :
    hostWrite Reg.cmd.offset 4 v s = .next (s.mapBlock fun b => b.accept.complete .illegalCmd) := by
  obtain ⟨hr, -⟩ := s.ready_iff.mp h
  rw [hostWrite_cmd hr, commandWrite]
  split
  · next i hi => exact absurd hi (hv i)
  · rw [command_of_illegal h]

/-! The effects (40_crc.md R123, R124). -/

theorem exec_crcInit (h : s.ready = true) : exec .crcInit s = .next (s.completeWithCrc 0xFFFF) := by
  rw [exec, execCrcInit, immediate, command_of_legal h]
  rfl

theorem exec_crcFeed (h : s.ready = true) (b : Byte) :
    exec (.crcFeed b) s = .next (s.completeWithCrc (crcUpdate s.params.crcVariant s.block.crc b)) := by
  rw [exec, execCrcFeed, immediate, command_of_legal h]
  rfl

theorem State.completeWithCrc_ready (h : s.rstN = true) (c : Half) : (s.completeWithCrc c).ready = true :=
  (State.ready_iff _).mpr ⟨h, rfl⟩

/-- Bytes fed one after the other fold into the accumulator, in the order they are fed. -/
theorem execAll_crcFeed (h : s.rstN = true) (c : Half) (xs : List Byte) :
    execAll (xs.map .crcFeed) (s.completeWithCrc c) = .next (s.completeWithCrc (crcFold s.params.crcVariant c xs)) := by
  induction xs generalizing c with
  | nil => rfl
  | cons x xs ih =>
    rw [List.map_cons, execAll, exec_crcFeed (State.completeWithCrc_ready h c)]
    exact ih (crcUpdate s.params.crcVariant c x)

theorem execAll_crcInit_crcFeed (h : s.ready = true) (xs : List Byte) :
    execAll (.crcInit :: xs.map .crcFeed) s = .next (s.completeWithCrc (crcFold s.params.crcVariant 0xFFFF xs)) := by
  obtain ⟨hr, -⟩ := s.ready_iff.mp h
  rw [execAll, exec_crcInit h]
  exact execAll_crcFeed hr 0xFFFF xs

end

/-- Settles O12: an accepted word of OP 2 is BYTE over the OP, every CRC_FEED takes one step of the fold, and the rule's
three values are evaluated. -/
theorem crcFeedRule : Obligations.CrcFeedRule := by
  refine ⟨fun b => ?word, fun s b h => exec_crcFeed h b, fun s b hr hb => exec_of_busy hr hb _,
    fun s v h hop hbits => ?illegal, rfl, rfl, rfl, fun xs => (crc16_modbus xs).symm,
    fun s xs h => execAll_crcInit_crcFeed h xs⟩
  case word =>
    rw [← encodeWord_crcFeed]
    exact decodeOfEncode (.crcFeed b) rfl
  case illegal =>
    refine hostWrite_of_not_decoded h fun i hi => ?_
    obtain ⟨hlow, hupper⟩ := zeros_of_decodeWord_crcFeed_op hop hi
    exact hbits.elim (absurd hlow) (absurd hupper)

/-- Settles O11: the only accepted word of OP 1 is 1, and CRC_INIT sets CRC and completes. -/
theorem crcInitRule : Obligations.CrcInitRule :=
  ⟨rfl, fun _ h => exec_crcInit h, fun _ hr hb => exec_of_busy hr hb _,
    fun _ _ h hop hne => hostWrite_of_not_decoded h fun _ hi => hne (eq_of_decodeWord_crcInit_op hop hi)⟩

end Sys2Proof.Machine
end

section
/-! The wire form of a frame (41_codec.md R141 to R145, R149): O13, O14 and O15. Every list of at least four bytes is
the wire form of a frame, and decoding gives that frame, whatever bytes follow. -/

namespace Sys2Proof.Machine

section
variable {bs : List Byte} {n : Nat}

theorem crcLo_append (hi lo : Byte) : crcLo (hi ++ lo) = lo := BitVec.extractLsb'_append_eq_right

theorem crcHi_append (hi lo : Byte) : crcHi (hi ++ lo) = hi := BitVec.extractLsb'_append_eq_left

theorem encodeBytes_length (f : Frame) : (encodeBytes f).length = f.data.length + 4 := by
  simp [encodeBytes]

/-- The first L bytes alone are decoded, and the wire form of a frame decodes to it, valid or not (41_codec.md R142,
R145). -/
theorem decodeBytes_encodeBytes_append (f : Frame) (rest : List Byte) :
    decodeBytes (encodeBytes f ++ rest) (f.data.length + 4) = .frame f := by
  rw [decodeBytes_of_long (by simp [encodeBytes_length])]
  simp [encodeBytes, crc_of_bytes]

theorem exists_encodeBytes_eq (h : 4 ≤ bs.length) : ∃ f, encodeBytes f = bs := by
  match bs, h with
  | addr :: cmd :: ys, h =>
  obtain ⟨lo, hi, htail⟩ : ∃ lo hi, ys.drop (ys.length - 2) = [lo, hi] :=
    List.length_eq_two.mp (by simp only [List.length_cons, List.length_drop] at h ⊢; omega)
  refine ⟨{ addr, cmd, data := ys.take (ys.length - 2), crc := hi ++ lo }, ?_⟩
  rw [encodeBytes, crcLo_append, crcHi_append, ← htail, List.append_assoc, List.take_append_drop]
  rfl

/-- What decoding a long enough input gives: the frame whose wire form the first L bytes are (41_codec.md R143). -/
theorem exists_decodeBytes_eq (hn : 4 ≤ n) (h : n ≤ bs.length) :
    ∃ f, decodeBytes bs n = .frame f ∧ encodeBytes f = bs.take n ∧ f.data.length = n - 4 := by
  obtain ⟨f, hf⟩ := exists_encodeBytes_eq (bs := bs.take n) (by simp; omega)
  have hlen : f.data.length + 4 = n := by
    rw [← encodeBytes_length, hf, List.length_take_of_le h]
  refine ⟨f, ?_, hf, by omega⟩
  have hdecode := decodeBytes_encodeBytes_append f (bs.drop n)
  rwa [hf, List.take_append_drop, hlen] at hdecode

end

/-- Byte i of a CRC with bit k of byte j flipped (40_crc.md R125). -/
theorem crcByte_flip (c : Half) (i : Nat) {j k : Nat} (hj : j < 2) (hk : k < 8) :
    (c ^^^ BitVec.twoPow 16 (8 * j + k)).extractLsb' (8 * i) 8
      = c.extractLsb' (8 * i) 8 ^^^ if i = j then BitVec.twoPow 8 k else 0 := by
  ext l hl
  have hbound : 8 * j + k < 16 := by omega
  have hplace : 8 * j + k = 8 * i + l ↔ i = j ∧ k = l := by omega
  by_cases hij : i = j <;> simp [hij, hbound, hplace, eq_comm]

/-- Flipping a bit of a CRC byte of the wire form gives the wire form of the frame with that bit of its CRC flipped. -/
theorem encodeBytes_flip_crc (f : Frame) {j k : Nat} (hj : j < 2) (hk : k < 8) :
    (encodeBytes f).set (f.data.length + 2 + j)
        ((encodeBytes f).getD (f.data.length + 2 + j) 0 ^^^ BitVec.twoPow 8 k)
      = encodeBytes { f with crc := f.crc ^^^ BitVec.twoPow 16 (8 * j + k) } := by
  have hlo := crcByte_flip f.crc 0 hj hk
  have hhi := crcByte_flip f.crc 1 hj hk
  interval_cases j <;> simp_all [encodeBytes, crcLo, crcHi]

/-- Settles O13: a short input is refused by its length, and a long one is decoded to the frame its first bytes are the
wire form of. -/
theorem shortInputNeverYieldsAFrame : Obligations.ShortInputNeverYieldsAFrame := by
  refine fun bs n => ⟨decodeBytes_of_short, fun hn h => ?_⟩
  obtain ⟨f, hdecode, hencode, hlen⟩ := exists_decodeBytes_eq (by omega) h
  exact ⟨f, hdecode, hencode.symm, hlen⟩

/-- Settles O14: both directions for every frame and every length from 4 on. -/
theorem frameRoundTrip : Obligations.FrameRoundTrip := by
  refine ⟨fun f _ => ?_, fun bs n hn h => ?_⟩
  · simpa using decodeBytes_encodeBytes_append f []
  · obtain ⟨f, hdecode, hencode, -⟩ := exists_decodeBytes_eq (by omega) h
    exact ⟨f, hdecode, hencode⟩

/-- Settles O15: the flipped bytes are the wire form of the frame with the flipped CRC, and the recomputed CRC is still
the old one. -/
theorem crcBitFlipIsDetected : Obligations.CrcBitFlipIsDetected := by
  intro v f j k _ hvalid hj hk
  have hcrc : frameCrc v f.addr f.cmd f.data = f.crc := beq_iff_eq.mp hvalid
  refine ⟨{ f with crc := f.crc ^^^ BitVec.twoPow 16 (8 * j + k) }, ?_, rfl, rfl, rfl, rfl, ?_⟩
  · rw [encodeBytes_flip_crc f hj hk]
    simpa using decodeBytes_encodeBytes_append { f with crc := f.crc ^^^ BitVec.twoPow 16 (8 * j + k) } []
  · refine beq_eq_false_iff_ne.mpr fun h => ?_
    have hbit := congrArg (BitVec.getLsbD · (8 * j + k)) (hcrc.symm.trans h)
    simp [show 8 * j + k < 16 by omega] at hbit

end Sys2Proof.Machine
end

section
/-! The codec's commands ENCODE, DECODE and VALIDATE (41_codec.md R146 to R148): O17, O16 and O18. -/

namespace Sys2Proof.Machine

section
variable {s : State} {v : Word} {b : Block}

theorem immediate_of_legal (h : s.ready = true) {l : Bool} (hl : l = true) (f : Block → Block) :
    immediate l f s = { s with block := f s.block.accept } := by
  rw [immediate, hl, command_of_legal h]
  rfl

/-- A word that `legal` rules out completes with ILLEGAL_CMD and no other effect (30_encoding.md R95). -/
theorem hostWrite_of_not_legal (h : s.ready = true) (hv : ¬legal v = true) :
    hostWrite Reg.cmd.offset 4 v s = .next (s.mapBlock fun b => b.accept.complete .illegalCmd) :=
  hostWrite_of_not_decoded h fun i hi => hv (exists_decodeWord_ok_iff_legal.mp ⟨i, hi⟩)

/-! DECODE (41_codec.md R147). -/

theorem Block.rxBytes_getD {k : Nat} (h : k < b.rxcnt.toNat) : b.rxBytes.getD k 0 = bufGet b.rxbuf k := by
  simp [Block.rxBytes, bufGet, h]

theorem doDecode_of_short {n : Nat} (h : b.rxcnt.toNat < n) : doDecode n b = b.clearRxf.complete .shortRead := by
  rw [doDecode, decodeBytes_of_short (by rw [Block.rxBytes_length]; omega)]

/-- The frame DECODE L finds in RXBUF, byte by byte, with zeros past its data. -/
theorem doDecode_of_received {n : Nat} (hn : n = 6 ∨ n = 7 ∨ n = 8) (h : n ≤ b.rxcnt.toNat) :
    doDecode n b = Block.complete .ok
      { b with
        rxf :=
          { addr := bufGet b.rxbuf 0, cmd := bufGet b.rxbuf 1, d0 := bufGet b.rxbuf 2, d1 := bufGet b.rxbuf 3
            d2 := if n = 6 then 0 else bufGet b.rxbuf 4
            d3 := if n = 8 then bufGet b.rxbuf 5 else 0
            crc := bufGet b.rxbuf (n - 1) ++ bufGet b.rxbuf (n - 2) }
        dlen := BitVec.ofNat 3 (n - 4), valid := false } := by
  have hlen : n ≤ b.rxBytes.length := by rw [Block.rxBytes_length]; omega
  rw [doDecode, decodeBytes_of_long hlen]
  have hdata (k : Nat) :
      ((b.rxBytes.drop 2).take (n - 4)).getD k 0 = if k < n - 4 then bufGet b.rxbuf (k + 2) else 0 := by
    split
    · rw [← Block.rxBytes_getD (by omega)]
      simp [*, Nat.add_comm]
    · simp [*]
  simp (disch := omega) only [Block.loadRxf, rxFieldsOf, hdata, Block.rxBytes_getD]
  rcases hn with rfl | rfl | rfl <;> rfl

/-! VALIDATE (41_codec.md R148). -/

theorem doValidate_of_no_frame (w : CrcVariant) (h : b.dlen = 0) :
    doValidate w b = (b.setValid false).complete .noFrame := if_pos h

theorem doValidate_of_match {w : CrcVariant} (h : b.dlen ≠ 0)
    (hc : frameCrc w b.rxf.addr b.rxf.cmd (b.rxf.data b.dlen.toNat) = b.rxf.crc) :
    doValidate w b = ((b.setCrc (frameCrc w b.rxf.addr b.rxf.cmd (b.rxf.data b.dlen.toNat))).setValid true).complete
      .ok := by
  rw [doValidate, if_neg h]
  exact if_pos hc

theorem doValidate_of_mismatch {w : CrcVariant} (h : b.dlen ≠ 0)
    (hc : frameCrc w b.rxf.addr b.rxf.cmd (b.rxf.data b.dlen.toNat) ≠ b.rxf.crc) :
    doValidate w b = ((b.setCrc (frameCrc w b.rxf.addr b.rxf.cmd (b.rxf.data b.dlen.toNat))).setValid false).complete
      .crcMismatch := by
  rw [doValidate, if_neg h]
  exact if_neg hc

/-! The three commands on an accepting state. -/

theorem dataLenLegal_iff {n : BitVec 4} : dataLenLegal n = true ↔ n = 2 ∨ n = 3 ∨ n = 4 := by
  simp [dataLenLegal, or_assoc]

theorem totalLenLegal_iff {n : BitVec 4} : totalLenLegal n = true ↔ n = 6 ∨ n = 7 ∨ n = 8 := by
  simp [totalLenLegal, or_assoc]

theorem exec_encode {n : BitVec 4} (h : s.ready = true) (hn : n = 2 ∨ n = 3 ∨ n = 4) :
    exec (.encode n) s = .next { s with block := doEncode s.params.crcVariant n.toNat s.block.accept } :=
  congrArg Host.Outcome.next (immediate_of_legal h (dataLenLegal_iff.mpr hn) _)

theorem exec_decode {n : BitVec 4} (h : s.ready = true) (hn : n = 6 ∨ n = 7 ∨ n = 8) :
    exec (.decode n) s = .next { s with block := doDecode n.toNat s.block.accept } :=
  congrArg Host.Outcome.next (immediate_of_legal h (totalLenLegal_iff.mpr hn) _)

theorem exec_validate (h : s.ready = true) :
    exec .validate s = .next { s with block := doValidate s.params.crcVariant s.block.accept } :=
  congrArg Host.Outcome.next (immediate_of_legal h rfl _)

end

/-- Settles O16: TXBUF is the wire form byte by byte, and `legal` refuses every other N for OP 3. -/
theorem encodeRule : Obligations.EncodeRule := by
  refine ⟨?words, fun s n h hn => ?effect, fun s v h hop hlen => ?illegal⟩
  case words => rintro n (rfl | rfl | rfl) <;> rfl
  case effect =>
    have htxlen : BitVec.ofNat 4 (n.toNat + 4) = n + 4 := by simp [BitVec.ofNat_add]
    refine ⟨(doEncode s.params.crcVariant n.toNat s.block).txbuf, fun k hk => bufGet_bufOf _ hk, ?_⟩
    rw [exec_encode h hn, ← htxlen]
    rfl
  case illegal =>
    refine hostWrite_of_not_legal h fun hv => ?_
    obtain ⟨-, -, -, -, -, hn, -⟩ := legal_iff.mp hv
    exact hlen (hn hop)

/-- Settles O17: DECODE sees the received bytes, which are as many as RXCNT says, and `legal` refuses every other N for
OP 4. -/
theorem decodeRule : Obligations.DecodeRule := by
  refine ⟨?words, fun s n h hn hcnt => ?short, fun s n h hn hcnt => ?received, fun s v h hop hlen => ?illegal⟩
  case words => rintro n (rfl | rfl | rfl) <;> rfl
  case short =>
    rw [exec_decode h hn, doDecode_of_short (b := s.block.accept) hcnt]
    rfl
  case received =>
    have htotal : n.toNat = 6 ∨ n.toNat = 7 ∨ n.toNat = 8 := totalLenLegal_toNat (totalLenLegal_iff.mpr hn)
    rw [exec_decode h hn, doDecode_of_received (b := s.block.accept) htotal hcnt]
    rcases hn with rfl | rfl | rfl <;> rfl
  case illegal =>
    refine hostWrite_of_not_legal h fun hv => ?_
    obtain ⟨-, -, -, -, -, -, hn, -⟩ := legal_iff.mp hv
    exact hlen (hn hop)

/-- Settles O18: one case each for no held frame, the received CRC equal to the recomputed one, and another. -/
theorem validateRule : Obligations.ValidateRule := by
  refine ⟨rfl, fun s h => ?_⟩
  rw [exec_validate h]
  refine ⟨fun h0 => ?noFrame, fun h0 hc => ?ok, fun h0 hc => ?mismatch⟩
  case noFrame =>
    rw [doValidate_of_no_frame (b := s.block.accept) _ h0]
    rfl
  case ok =>
    rw [doValidate_of_match (b := s.block.accept) h0 hc]
    rfl
  case mismatch =>
    rw [doValidate_of_mismatch (b := s.block.accept) h0 hc]
    rfl

end Sys2Proof.Machine
end

section
/-! The acceptance of SEND and RECEIVE, the Engine's steps of a send, and a received character (42_transport.md R174 to
R180, R184, R186): O19, O20, O21, O22 and O23. -/

namespace Sys2Proof.Machine

section
variable {s : State}

/-! Acceptance (42_transport.md R174, R184). -/

theorem exec_send_of_open (h : s.ready = true) (hlen : 1 ≤ s.block.txlen.toNat ∧ s.block.txlen.toNat ≤ 8)
    (hport : s.block.portEn = true) : exec .send s = .next (beginSend .send (s.mapBlock Block.accept)) := by
  have hbody : doSend (s.mapBlock Block.accept) = withPort (beginSend .send) (s.mapBlock Block.accept) :=
    if_pos (txlenLegal_iff.mpr hlen)
  rw [exec, execSend, command_of_legal h, hbody, withPort_of_open (s := s.mapBlock Block.accept) hport]

theorem exec_receive_of_open {n : BitVec 4} (h : s.ready = true) (hn : 1 ≤ n.toNat ∧ n.toNat ≤ 8)
    (hport : s.block.portEn = true) :
    exec (.receive n) s = .next (openRx n.toNat ((s.mapBlock Block.accept).mapBlock (Block.setOp .receive))) := by
  rw [exec, execReceive, countLegal_iff.mpr hn, command_of_legal h, doReceive,
    withPort_of_open (s := s.mapBlock Block.accept) hport]

/-- With reset released `dir` shows the block's own phase (10_state.md R41). -/
theorem State.dir_of_released (h : s.rstN = true) : s.dir = s.block.phase.dir := by
  rw [State.dir, State.view_of_released h, Block.dir]

theorem openRx_dir (n : Nat) (h : s.rstN = true) : (openRx n s).dir = true :=
  State.dir_of_released (s := openRx n s) h

/-! The Engine's steps of a send (42_transport.md R175 to R177). -/

/-- A character goes on the wire: SHIFT until its end, and its entry in the `txd` trace. -/
theorem shiftOut_eq (k : Nat) (s : State) :
    shiftOut k s = { s with
      block := { s.block with phase := .shift, txIdx := k, tDead := s.now + s.params.charNs }
      obs := { s.obs with txdTrace := s.obs.txdTrace ++ [⟨bufGet s.block.txbuf k, s.now, none⟩] } } := rfl

theorem engineStep_of_settle (hp : s.block.phase = .settle) : engineStep s = .next (shiftOut 0 s) := by
  rw [engineStep, hp, endSettle]

theorem engineStep_of_shift (hp : s.block.phase = .shift) (hk : s.block.txIdx + 1 < s.block.txlen.toNat) :
    engineStep s = .next (shiftOut (s.block.txIdx + 1) s) := by
  rw [engineStep, hp, endChar, if_pos hk]

theorem engineStep_of_last_char (hp : s.block.phase = .shift) (hk : s.block.txlen.toNat ≤ s.block.txIdx + 1) :
    engineStep s = .next ((s.mapBlock (Block.setTxIdx (s.block.txIdx + 1))).startPhase .drain s.block.tDrain) := by
  rw [engineStep, hp, endChar, if_neg (Nat.not_lt.mpr hk)]

theorem engineStep_of_send_drain (hp : s.block.phase = .drain) (hop : s.block.op = .send) :
    engineStep s = .next (s.mapBlock (Block.complete .ok)) := by
  rw [engineStep, hp, endDrain, hop]

/-- The drain of a transaction opens a window for its reply (43_transactions.md R211, R214). -/
theorem engineStep_of_xact_drain (hp : s.block.phase = .drain) (hop : s.block.op = .regXact ∨ s.block.op = .coilXact) :
    engineStep s = .next (openRx (if s.block.op = .regXact then 7 else 6) s) := by
  rw [engineStep, hp]
  obtain hop | hop := hop <;> rw [endDrain, hop] <;> rfl

/-! A received character (42_transport.md R179, R180). -/

theorem deliver_some (h : s.rstN = true) (x : Byte) : deliver (some x) s = rxChar x s :=
  if_neg (by simp [h])

theorem deliver_none (h : s.rstN = true) :
    deliver none s = rxChar (Config.badCharByte s.draws) { s with draws := s.draws + 1 } :=
  if_neg (by simp [h])

theorem rxChar_of_outside (h : ¬charFits s = true) (x : Byte) : rxChar x s = .next (s.mapBlock Block.dropChar) :=
  if_neg h

theorem rxChar_of_fits (h : charFits s = true) (x : Byte) :
    rxChar x s = if (s.block.rxcnt + 1).toNat = s.block.rxN then closeRx (s.mapBlock (Block.storeChar x))
      else .next (s.mapBlock (Block.storeChar x)) := by
  rw [rxChar, if_pos h]
  rfl

end

/-- Settles O19: SEND's body is `begin_send`, whose deadline lies between the two bounds. -/
theorem sendStartsSettle : Obligations.SendStartsSettle := by
  intro s h h1 h8 hport
  obtain ⟨hr, hb⟩ := s.ready_iff.mp h
  have hdir : s.dir = true := by rw [State.dir_of_released hr, Block.phase_of_not_busy hb]; rfl
  exact ⟨hdir, _, s.deadline s.block.tSettle, exec_send_of_open h ⟨h1, h8⟩ hport, State.dir_of_released hr, rfl,
    s.le_deadline _, s.deadline_le _, rfl⟩

/-- Settles O20: RECEIVE's body is `open_rx`. -/
theorem receiveOpensWindow : Obligations.ReceiveOpensWindow := by
  intro s n h h1 h8 hport
  obtain ⟨hr, -⟩ := s.ready_iff.mp h
  exact ⟨_, s.deadline s.block.tRxto, exec_receive_of_open h ⟨h1, h8⟩ hport, openRx_dir _ hr, rfl, s.le_deadline _,
    s.deadline_le _, rfl⟩

/-- Settles O21: the Engine's step at the deadline of each phase of a send. -/
theorem engineSendSteps : Obligations.EngineSendSteps := by
  intro s hr
  refine ⟨engineStep_of_settle, fun hp hk => ?shift, fun hp hk => ?lastChar, engineStep_of_send_drain,
    fun hp hop => ?reply⟩
  case shift =>
    rw [engineStep_of_shift hp hk, shiftOut_eq, ← hp]
  case lastChar =>
    exact ⟨s.deadline s.block.tDrain, s.le_deadline _, s.deadline_le _, engineStep_of_last_char hp hk⟩
  case reply =>
    have hdir : s.dir = false := by rw [State.dir_of_released hr, hp]; rfl
    exact ⟨hdir, _, s.deadline s.block.tRxto, engineStep_of_xact_drain hp hop, openRx_dir _ hr, s.le_deadline _,
      s.deadline_le _, rfl⟩

/-- Settles O22: `charFits` is the rule's condition, and in an open window RXCNT counts one byte more. -/
theorem receivedCharacterRule : Obligations.ReceivedCharacterRule := by
  intro s x hinv hr
  rw [← charFits_iff, deliver_some hr]
  refine ⟨fun hfit => ?stored, fun hfit => rxChar_of_outside hfit x⟩
  have hp := charFits_phase hfit
  obtain ⟨hlt, hle, -⟩ := hinv.block.window hp
  refine ⟨hlt, hle, bufSet s.block.rxbuf s.block.rxcnt.toNat x, bufGet_bufSet_same _ (by omega) x,
    fun k hk => bufGet_bufSet_ne _ hk.symm x, ?_⟩
  rw [rxChar_of_fits hfit, hinv.block.rxcnt_succ hp]
  exact ⟨fun hne => if_neg hne, fun heq => if_pos heq⟩

/-- Settles O23: the byte is the free value of the draw's number. -/
theorem erroneousCharacterIsReceived : Obligations.ErroneousCharacterIsReceived := by
  refine ⟨Config.badCharByte, fun s hr => ?_⟩
  rw [deliver_none hr]
  exact (deliver_some (s := { s with draws := s.draws + 1 }) hr _).symm

end Sys2Proof.Machine
end

section
/-! What a step does to the bus command in progress, said once (00_scope.md R8; 42_transport.md R174 to R187): O53, O51,
O25 and O24. -/

namespace Sys2Proof.Machine

/-- The command in progress is the same in b and c: the sequencer's phase, op, deadline and opening of the window, and the
result (10_state.md R38). -/
structure Block.SameRun (b c : Block) : Prop where
  phase  : c.phase = b.phase
  op     : c.op = b.op
  tDead  : c.tDead = b.tDead
  tOpen  : c.tOpen = b.tOpen
  result : c.result = b.result

/-- The window of b closes and its command completes: RECEIVE with OK and the held frame left alone (42_transport.md R183,
R185; 43_transactions.md R212). -/
structure Block.Closes (b c : Block) : Prop where
  window  : b.phase = .rxwait
  phase   : c.phase = .idle
  op      : b.op = .receive ∨ b.op = .regXact ∨ b.op = .coilXact
  receive : b.op = .receive →
    c.done = true ∧ c.result = .ok ∧ c.rxf = b.rxf ∧ c.dlen = b.dlen ∧ c.valid = b.valid

/-- The Engine ends a phase of the transmit sequence: only the end of the drain leaves the sequence, and any result it gives
is OK (42_transport.md R175 to R177). -/
structure Block.EndsSendPhase (b c : Block) : Prop where
  sending : b.phase.sending = true
  next    : c.phase.sending = true ∨ b.phase = .drain
  result  : c.result = b.result ∨ c.result = .ok

/-- What an accepted command i leaves: a running command only if i is a bus command and the port is open, and SHORT_READ
only if i is DECODE (42_transport.md R174, R184; 43_transactions.md R210, R213; 41_codec.md R147). -/
structure Block.AfterCommand (i : Instr) (b c : Block) : Prop where
  busy   : c.busy = true →
    b.portEn = true ∧ ((i = .send ∨ i = .regXact ∨ i = .coilXact) ∨ c.phase = .rxwait ∧ ∃ n, i = .receive n)
  result : c.result = .shortRead → ∃ n, i = .decode n

/-- What an accepted word v leaves: the same, for the command it decodes to (30_encoding.md R95). -/
structure Block.AfterWord (v : Word) (b c : Block) : Prop where
  busy   : c.busy = true → ∃ i, decodeWord v = .ok i ∧ b.AfterCommand i c
  result : c.result = .shortRead → ∃ n, decodeWord v = .ok (.decode n)

section
variable {s t : State} {b c : Block} {i : Instr}

theorem Block.busy_of_rxwait (h : b.phase = .rxwait) : b.busy = true := by rw [Block.busy, h]; rfl

theorem Block.not_busy_of_idle (h : b.phase = .idle) : ¬b.busy = true := by simp [Block.busy, h]

theorem Block.SameRun.busy (h : b.SameRun c) : c.busy = b.busy := by rw [Block.busy, h.phase, Block.busy]

/-! Accepted commands. -/

/-- A command that completes at once with a result other than SHORT_READ. -/
theorem Block.complete_afterCommand (i : Instr) (b c : Block) {r : Result} (hr : r ≠ .shortRead) :
    b.AfterCommand i (c.complete r) :=
  ⟨nofun, fun h => absurd h hr⟩

theorem doDecode_afterCommand (b c : Block) (n : BitVec 4) : b.AfterCommand (.decode n) (doDecode n.toNat c) :=
  ⟨fun h => absurd h (Block.not_busy_of_idle (doDecode_phase _ c)), fun _ => ⟨n, rfl⟩⟩

theorem doValidate_afterCommand (v : CrcVariant) (b c : Block) : b.AfterCommand .validate (doValidate v c) := by
  unfold doValidate
  dsimp only
  split
  · exact Block.complete_afterCommand _ _ _ nofun
  · split <;> exact Block.complete_afterCommand _ _ _ nofun

theorem withPort_afterCommand {f : State → State}
    (hf : s.block.portEn = true → s.block.AfterCommand i (f s).block) :
    s.block.AfterCommand i (withPort f s).block := by
  cases hp : s.block.portEn
  · rw [withPort_of_closed hp]
    exact Block.complete_afterCommand _ _ _ nofun
  · rw [withPort_of_open hp]
    exact hf hp

/-- A bus command that starts: the port is open and there is no result yet. -/
theorem Block.afterCommand_of_start (hport : b.portEn = true) (hres : c.result = .ok)
    (hi : (i = .send ∨ i = .regXact ∨ i = .coilXact) ∨ c.phase = .rxwait ∧ ∃ n, i = .receive n) :
    b.AfterCommand i c :=
  ⟨fun _ => ⟨hport, hi⟩, by simp [hres]⟩

theorem doSend_afterCommand (hres : s.block.result = .ok) : s.block.AfterCommand .send (doSend s).block := by
  unfold doSend
  split
  · exact withPort_afterCommand fun hport => Block.afterCommand_of_start hport hres (.inl (.inl rfl))
  · exact Block.complete_afterCommand _ _ _ nofun

theorem doReceive_afterCommand (hres : s.block.result = .ok) (n : BitVec 4) :
    s.block.AfterCommand (.receive n) (doReceive n.toNat s).block :=
  withPort_afterCommand fun hport => Block.afterCommand_of_start hport hres (.inr ⟨rfl, n, rfl⟩)

theorem doTransaction_afterCommand (hres : s.block.result = .ok) (hi : i = .regXact ∨ i = .coilXact) (op : BusOp)
    (n : Nat) : s.block.AfterCommand i (doTransaction op n s).block :=
  withPort_afterCommand fun hport => Block.afterCommand_of_start hport hres (.inl (.inr hi))

/-- A command that is not accepted leaves the command in progress alone; an accepted one leaves what its body does. -/
theorem command_run {l : Bool} {f : State → State}
    (hf : (s.mapBlock Block.accept).block.AfterCommand i (f (s.mapBlock Block.accept)).block) :
    s.block.SameRun (command l f s).block ∨ s.ready = true ∧ s.block.AfterCommand i (command l f s).block := by
  obtain ⟨-, h⟩ | ⟨-, -, h⟩ | ⟨hr, -, h⟩ | ⟨hr, -, h⟩ := command_cases l f s <;> rw [h]
  · exact .inl ⟨rfl, rfl, rfl, rfl, rfl⟩
  · exact .inl ⟨rfl, rfl, rfl, rfl, rfl⟩
  · exact .inr ⟨hr, Block.complete_afterCommand _ _ _ nofun⟩
  · exact .inr ⟨hr, hf.busy, hf.result⟩

theorem exec_run (h : exec i s = .next t) :
    s.block.SameRun t.block ∨ s.ready = true ∧ s.block.AfterCommand i t.block := by
  cases i <;> cases h
  case crcInit => exact command_run (Block.complete_afterCommand _ _ _ nofun)
  case crcFeed => exact command_run (Block.complete_afterCommand _ _ _ nofun)
  case encode => exact command_run (Block.complete_afterCommand _ _ _ nofun)
  case decode n => exact command_run (doDecode_afterCommand _ _ n)
  case validate => exact command_run (doValidate_afterCommand _ _ _)
  case send => exact command_run (doSend_afterCommand rfl)
  case receive n => exact command_run (doReceive_afterCommand rfl n)
  case regXact => exact command_run (doTransaction_afterCommand rfl (.inl rfl) _ _)
  case coilXact => exact command_run (doTransaction_afterCommand rfl (.inr rfl) _ _)

theorem commandWrite_run {v : Word} (h : commandWrite v s = .next t) :
    s.block.SameRun t.block ∨ s.ready = true ∧ s.block.AfterWord v t.block := by
  obtain ⟨i, hi, he⟩ | rfl := commandWrite_next h
  · refine (exec_run he).imp_right fun ⟨hr, ha⟩ => ⟨hr, fun _ => ⟨i, hi, ha⟩, fun hres => ?_⟩
    obtain ⟨n, rfl⟩ := ha.result hres
    exact ⟨n, hi⟩
  · obtain ⟨-, h⟩ | ⟨-, -, h⟩ | ⟨hr, -, h⟩ | ⟨-, hl, -⟩ := command_cases false id s
    · rw [h]; exact .inl ⟨rfl, rfl, rfl, rfl, rfl⟩
    · rw [h]; exact .inl ⟨rfl, rfl, rfl, rfl, rfl⟩
    · rw [h]; exact .inr ⟨hr, nofun, nofun⟩
    · cases hl

/-! The host's accesses. -/

/-- A register write leaves the command in progress alone (20_memory.md R64, R65). -/
theorem Block.writeReg_sameRun (b : Block) (r : Reg) (v : Word) : b.SameRun (b.writeReg r v) := by
  have guarded (w : Block → Block) (hw : b.SameRun (w b)) : b.SameRun (b.guarded w) := by
    unfold Block.guarded
    split
    · exact ⟨rfl, rfl, rfl, rfl, rfl⟩
    · exact hw
  cases r
  case ctrl | status | cmd | crc | rxb0 | rxb1 | rxf0 | rxf1 | rxinfo => exact ⟨rfl, rfl, rfl, rfl, rfl⟩
  case txf0 | txf1 | txb0 | txb1 | txlen | tSettle | tDrain | tRxto => exact guarded _ ⟨rfl, rfl, rfl, rfl, rfl⟩

/-- CMD stands at its own offset alone (10_state.md R20). -/
theorem eq_of_regAt_cmd {off : Offset} (h : regAt off = some .cmd) : off = 0x08 := by
  unfold regAt at h
  split at h <;> cases h
  exact BitVec.eq_of_toNat_eq (by assumption)

/-- A write that is not refused is 32 bits wide, unless reset is held (20_memory.md R61). -/
theorem size_of_hostWrite_next {off : Offset} {size : Nat} {v : Word} (hr : s.rstN = true)
    (h : hostWrite off size v s = .next t) : size = 4 := by
  by_contra hne
  have hodd : ¬admitted off size = true := fun hadm => hne ((admitted_iff off size).mp hadm).1
  cases (hostWrite_of_odd hr hodd v).symm.trans h

/-- A host statement leaves the command in progress alone, unless it writes to CMD and the word is accepted. -/
theorem hostStmt_run {c : HostStmt} (h : hostStmt c s = .next t) :
    s.block.SameRun t.block ∨ s.ready = true ∧ ∃ v, c = .wr 0x08 4 v ∧ s.block.AfterWord v t.block := by
  obtain ⟨off, size, v, rfl, hw⟩ | ⟨x, rfl⟩ | ⟨x, rfl⟩ | rfl := hostStmt_next h
  · obtain rfl | ⟨hr, hreg, hc⟩ | ⟨-, r, -, -, rfl⟩ := hostWrite_next hw
    · exact .inl ⟨rfl, rfl, rfl, rfl, rfl⟩
    · obtain rfl := eq_of_regAt_cmd hreg
      obtain rfl := size_of_hostWrite_next hr hw
      exact (commandWrite_run hc).imp_right fun ⟨hready, ha⟩ => ⟨hready, v, rfl, ha⟩
    · exact .inl (s.block.writeReg_sameRun r v)
  all_goals exact .inl ⟨rfl, rfl, rfl, rfl, rfl⟩

/-! The Engine and the Bus. -/

theorem Block.finishXact_phase (v : CrcVariant) (b : Block) : (b.finishXact v).phase = .idle := by
  unfold Block.finishXact
  split
  · rfl
  · dsimp only
    split <;> rfl

theorem closeRx_closes (hp : s.block.phase = .rxwait) (h : closeRx s = .next t) : s.block.Closes t.block := by
  obtain ⟨hop, rfl⟩ | ⟨hop, rfl⟩ := closeRx_next h
  · exact ⟨hp, rfl, .inl hop, fun _ => ⟨rfl, rfl, rfl, rfl, rfl⟩⟩
  · exact ⟨hp, Block.finishXact_phase _ _, .inr hop, fun hrec => by simp [hrec] at hop⟩

theorem engineStep_of_rxwait (hp : s.block.phase = .rxwait) : engineStep s = closeRx s := by
  rw [engineStep, hp]

theorem engineStep_run (h : engineStep s = .next t) : s.block.EndsSendPhase t.block ∨ s.block.Closes t.block := by
  obtain ⟨hp, rfl⟩ | ⟨hp, rfl⟩ | ⟨hp, hd⟩ | ⟨hp, hc⟩ := engineStep_next h
  · exact .inl ⟨by rw [hp]; rfl, .inl rfl, .inl rfl⟩
  · unfold endChar
    split <;> exact .inl ⟨by rw [hp]; rfl, .inl rfl, .inl rfl⟩
  · obtain ⟨-, rfl⟩ | ⟨-, rfl⟩ | ⟨-, rfl⟩ := endDrain_next hd
    · exact .inl ⟨by rw [hp]; rfl, .inr hp, .inr rfl⟩
    · exact .inl ⟨by rw [hp]; rfl, .inr hp, .inl rfl⟩
    · exact .inl ⟨by rw [hp]; rfl, .inr hp, .inl rfl⟩
  · exact .inr (closeRx_closes hp hc)

theorem rxChar_run {x : Byte} (h : rxChar x s = .next t) : s.block.SameRun t.block ∨ s.block.Closes t.block := by
  obtain ⟨-, rfl⟩ | ⟨-, -, rfl⟩ | ⟨hfit, -, hc⟩ := rxChar_next h
  · exact .inl ⟨rfl, rfl, rfl, rfl, rfl⟩
  · exact .inl ⟨rfl, rfl, rfl, rfl, rfl⟩
  · have hcl := closeRx_closes (s := s.mapBlock (Block.storeChar x)) (charFits_phase hfit) hc
    exact .inr ⟨hcl.window, hcl.phase, hcl.op, hcl.receive⟩

theorem deliver_run {c : Option Byte} (h : deliver c s = .next t) :
    s.block.SameRun t.block ∨ s.block.Closes t.block := by
  obtain ⟨-, rfl⟩ | ⟨-, x, -, hx⟩ | ⟨-, -, hx⟩ := deliver_next h
  · exact .inl ⟨rfl, rfl, rfl, rfl, rfl⟩
  · exact rxChar_run hx
  · exact rxChar_run (s := { s with draws := s.draws + 1 }) hx

/-- Everything a step can do to the command in progress: reset aborts it; nothing happens to it; the Engine ends a phase of
its transmit sequence; the Engine or the Bus closes its window; or the host's word starts or completes one. -/
theorem step_run (h : step s = .next t) :
    (t.rstN = false ∧ t.block = Block.reset)
      ∨ s.block.SameRun t.block
      ∨ (s.engineDue = true ∧ s.block.EndsSendPhase t.block)
      ∨ s.block.Closes t.block
      ∨ (s.ready = true ∧ ∃ v rest, s.env.host = .wr 0x08 4 v :: rest ∧ s.block.AfterWord v t.block) := by
  obtain ⟨u, rfl, hu⟩ := step_cases h
  rw [noteLines_block, noteLines_rstN]
  obtain ⟨e, -, -, -, rfl⟩ | ⟨-, hdue, he⟩ | ⟨-, -, tie, c, -, -, -, hb⟩ | ⟨-, -, -, tie, c, cs, hcs, hh⟩
    | ⟨-, -, -, -, v, -, rfl⟩ := hu
  · cases e.level
    · exact .inl ⟨rfl, rfl⟩
    · exact .inr (.inl ⟨rfl, rfl, rfl, rfl, rfl⟩)
  · obtain hsend | hclose := engineStep_run he
    · exact .inr (.inr (.inl ⟨hdue, hsend⟩))
    · exact .inr (.inr (.inr (.inl hclose)))
  · have hrun := deliver_run hb
    rw [State.popBus_block, State.popTie_block] at hrun
    obtain hsame | hclose := hrun
    · exact .inr (.inl hsame)
    · exact .inr (.inr (.inr (.inl hclose)))
  · have hrun := hostStmt_run hh
    rw [State.ready, State.popHost_block, State.popTie_block, State.popHost_rstN, State.popTie_rstN] at hrun
    obtain hsame | ⟨hready, v, rfl, ha⟩ := hrun
    · exact .inr (.inl hsame)
    · exact .inr (.inr (.inr (.inr ⟨hready, v, cs, hcs, ha⟩)))
  · exact .inr (.inl ⟨rfl, rfl, rfl, rfl, rfl⟩)

/-! The line `dir` (10_state.md R41, 42_transport.md R170). -/

theorem Phase.dir_of_sending {p : Phase} (h : p.sending = true) : p.dir = false := by
  cases p <;> simp_all [Phase.sending, Phase.dir]

/-- Under the invariant `dir` shows the block's phase, held reset or not. -/
theorem State.Inv.dir_eq (h : s.Inv) : s.dir = s.block.phase.dir := by
  cases hr : s.rstN
  · rw [State.dir, State.view_of_held hr, h.held hr, Block.dir]
  · exact State.dir_of_released hr

/-- The Engine's step is taken at the deadline, which `now` has not passed (00_scope.md R9). -/
theorem State.Inv.now_eq_of_engineDue (h : s.Inv) (hdue : s.engineDue = true) : s.now = s.block.tDead := by
  obtain ⟨-, hb, hle⟩ := s.engineDue_iff.mp hdue
  exact Nat.le_antisymm (h.onTime hb) hle

/-- RECEIVE is in its window from its acceptance on (42_transport.md R184). -/
theorem Block.Inv.rxwait_of_receive {v : CrcVariant} (h : b.Inv v) (hop : b.op = .receive) : b.phase = .rxwait := by
  have hfits := h.op
  unfold Block.opFits at hfits
  split at hfits <;> simp_all

end

/-- Settles O53: of all that a step can do to the command in progress, only an accepted word starts one. -/
theorem onlyTheHostStartsABusCommand : Obligations.OnlyTheHostStartsABusCommand := by
  intro s t h hs ht
  have hidle : ¬s.block.busy = true := by simp [hs]
  obtain ⟨-, hreset⟩ | hsame | ⟨-, hsend⟩ | hclose | ⟨hready, v, rest, hhost, ha⟩ := step_run h
  · rw [hreset] at ht; cases ht
  · exact absurd (hsame.busy ▸ ht) hidle
  · exact absurd (Block.busy_of_sending hsend.sending) hidle
  · exact absurd (Block.busy_of_rxwait hclose.window) hidle
  · obtain ⟨i, hi, hafter⟩ := ha.busy ht
    obtain ⟨hport, (rfl | hxact) | ⟨-, hrec⟩⟩ := hafter.busy ht
    · exact ⟨(s.ready_iff.mp hready).1, hport, v, rest, _, hhost, hi, .inl rfl⟩
    · exact ⟨(s.ready_iff.mp hready).1, hport, v, rest, i, hhost, hi, .inr (.inr hxact)⟩
    · exact ⟨(s.ready_iff.mp hready).1, hport, v, rest, i, hhost, hi, .inr (.inl hrec)⟩

/-- Settles O51: `dir` follows the phase, which enters the transmit sequence by an accepted send alone and leaves it by reset
or at the end of the drain. -/
theorem directionLineRule : Obligations.DirectionLineRule := by
  intro s t h hstep
  rw [h.dir_eq, (stepKeepsInvariant s t h hstep).dir_eq]
  obtain ⟨hr, hreset⟩ | hsame | ⟨hdue, hsend⟩ | hclose | ⟨hready, v, rest, hhost, ha⟩ := step_run hstep
  · rw [hreset]
    exact ⟨nofun, fun _ _ => .inl hr⟩
  · rw [hsame.phase]
    exact ⟨fun h1 h0 => absurd h1 (by simp [h0]), fun h0 h1 => absurd h1 (by simp [h0])⟩
  · refine ⟨fun h1 => ?_, fun _ h1 => .inr ?_⟩
    · rw [Phase.dir_of_sending hsend.sending] at h1; cases h1
    · obtain hnext | hdrain := hsend.next
      · rw [Phase.dir_of_sending hnext] at h1; cases h1
      · exact ⟨hdrain, h.now_eq_of_engineDue hdue⟩
  · rw [hclose.window, hclose.phase]
    exact ⟨nofun, nofun⟩
  · obtain ⟨-, hidle⟩ := s.ready_iff.mp hready
    rw [Block.phase_of_not_busy hidle]
    refine ⟨fun _ h0 => ?_, nofun⟩
    have hbusy : t.block.busy = true := by
      cases hp : t.block.phase <;> simp_all [Block.busy, Phase.dir]
    obtain ⟨i, hi, hafter⟩ := ha.busy hbusy
    obtain ⟨hport, hsends | ⟨hrx, -⟩⟩ := hafter.busy hbusy
    · exact ⟨hidle, hport, v, rest, i, hhost, hi, hsends⟩
    · rw [hrx] at h0; cases h0

/-- Settles O25: a RECEIVE ends without reset only by the close of its window, and SHORT_READ comes only from the close of a
transaction's window or from an accepted DECODE. -/
theorem receiveAlwaysCompletesOk : Obligations.ReceiveAlwaysCompletesOk := by
  intro s t h hstep
  constructor
  · intro hop hidle hr
    have hwindow := h.block.rxwait_of_receive hop
    have hbusy := Block.busy_of_rxwait hwindow
    obtain ⟨hheld, -⟩ | hsame | ⟨-, hsend⟩ | hclose | ⟨hready, -⟩ := step_run hstep
    · rw [hheld] at hr; cases hr
    · rw [hsame.busy, hbusy] at hidle; cases hidle
    · have hsending := hsend.sending
      rw [hwindow] at hsending; cases hsending
    · exact hclose.receive hop
    · rw [(s.ready_iff.mp hready).2] at hbusy; cases hbusy
  · intro hshort hold
    obtain ⟨-, hreset⟩ | hsame | ⟨-, hsend⟩ | hclose | ⟨-, v, rest, hhost, ha⟩ := step_run hstep
    · rw [hreset] at hshort; cases hshort
    · exact absurd (hsame.result ▸ hshort) hold
    · obtain hkept | hok := hsend.result
      · exact absurd (hkept ▸ hshort) hold
      · rw [hok] at hshort; cases hshort
    · obtain hop | hop := hclose.op
      · obtain ⟨-, hok, -⟩ := hclose.receive hop
        rw [hok] at hshort; cases hshort
      · exact .inr hop
    · obtain ⟨n, hn⟩ := ha.result hshort
      exact .inl ⟨v, rest, n, hhost, hn⟩

/-- At the deadline of an open window the step is the Engine's close of it, which leaves RXBUF and RXCNT (42_transport.md
R182, R183). -/
theorem step_at_window_deadline {s t : State} (h : s.Inv) (hp : s.block.phase = .rxwait) (hnow : s.now = s.block.tDead)
    (hr : s.resetDue = false) (hstep : step s = .next t) : s.block.Closes t.block ∧ s.block.SameRx t.block := by
  have hbusy := Block.busy_of_rxwait hp
  have hdue : s.engineDue = true := s.engineDue_iff.mpr ⟨(h.released_of_busy hbusy).rstN, hbusy, hnow.ge⟩
  obtain ⟨u, hperform, rfl⟩ := step_next hstep
  rw [State.nextAction_of_engineDue hr hdue, perform, engineStep_of_rxwait hp] at hperform
  rw [noteLines_block]
  exact ⟨closeRx_closes hp hperform, closeRx_sameRx hperform⟩

/-- Settles O24: the invariant has the window's bounds, and only what leaves the command in progress alone leaves the window
open. -/
theorem windowClosesOnTimeout : Obligations.WindowClosesOnTimeout := by
  intro s t h hp hstep
  obtain ⟨hlt, -⟩ := h.block.window hp
  obtain ⟨-, hlow, hhigh⟩ := h.deadline hp
  refine ⟨hlt, fun hslack => by omega, fun hnow hr => ?_, fun hopen => ?_⟩
  · obtain ⟨hclose, hbuf, hcnt⟩ := step_at_window_deadline h hp hnow hr hstep
    exact ⟨Bool.eq_false_iff.mpr (Block.not_busy_of_idle hclose.phase), hcnt, hbuf⟩
  · have hbusy := Block.busy_of_rxwait hp
    obtain ⟨-, hreset⟩ | hsame | ⟨-, hsend⟩ | hclose | ⟨hready, -⟩ := step_run hstep
    · rw [hreset] at hopen; cases hopen
    · exact ⟨hsame.tDead, hsame.tOpen⟩
    · have hsending := hsend.sending
      rw [hp] at hsending; cases hsending
    · rw [hclose.phase] at hopen; cases hopen
    · rw [(s.ready_iff.mp hready).2] at hbusy; cases hbusy

end Sys2Proof.Machine
end

section
/-! The run of a SEND with nothing else happening (42_transport.md R174 to R177, 70_reset_and_hazards.md R280): O60. -/

namespace Sys2Proof.Machine

/-- Nothing but the Engine and Time can move, and the timers are exact (92_eei_decisions.md D12). -/
structure State.Undisturbed (s : State) : Prop where
  rstN  : s.rstN = true
  quiet : s.quiet
  exact : s.params.timerSlackNs = 0

/-- Steps lead from s to t. -/
def State.Reaches (s t : State) : Prop := ∃ n, steps n s = .next t

section
variable {s t u : State}

theorem State.Reaches.refl (s : State) : s.Reaches s := ⟨0, rfl⟩

theorem State.Reaches.of_step (h : step s = .next t) : s.Reaches t := ⟨1, by rw [steps, h]; rfl⟩

theorem steps_add {m : Nat} (h : steps m s = .next t) (n : Nat) : steps (m + n) s = steps n t := by
  induction m generalizing s with
  | zero => cases h; rw [Nat.zero_add]
  | succ m ih =>
    rw [Nat.succ_add, steps]
    rw [steps] at h
    cases hs : step s with
    | next r => rw [hs] at h; exact ih h
    | fault f => rw [hs] at h; cases h
    | refused r => rw [hs] at h; cases h

theorem State.Reaches.trans (h : s.Reaches t) (k : t.Reaches u) : s.Reaches u := by
  obtain ⟨m, hm⟩ := h
  obtain ⟨n, hn⟩ := k
  exact ⟨m + n, (steps_add hm n).trans hn⟩

/-! From one deadline to the next. -/

theorem State.Undisturbed.of_outsideKept (h : s.Undisturbed) (k : s.OutsideKept t) : t.Undisturbed :=
  ⟨k.rstN.trans h.rstN, by rw [State.quiet, k.env]; exact h.quiet, by rw [k.params]; exact h.exact⟩

theorem timeStep_undisturbed (h : s.Undisturbed) (v : Nat) : (timeStep v s).Undisturbed :=
  ⟨h.rstN, h.quiet, h.exact⟩

theorem State.Undisturbed.resetDue (h : s.Undisturbed) : s.resetDue = false := by
  obtain ⟨-, -, hrst⟩ := h.quiet
  rw [State.resetDue, hrst]

/-- With nothing else left, Time goes to the deadline of the running command (00_scope.md R9). -/
theorem State.Undisturbed.nextAction (h : s.Undisturbed) (hb : s.block.busy = true) (hlt : s.now < s.block.tDead) :
    s.nextAction = .time s.block.tDead := by
  obtain ⟨hhost, hbus, hrst⟩ := h.quiet
  have hinstants : s.instants = [s.block.tDead] := by
    simp [State.instants, State.view_of_released h.rstN, hhost, hbus, hrst, hb]
  simp [State.nextAction, State.resetDue, State.engineDue, State.busDue, State.hostReady, State.view_of_released h.rstN,
    hhost, hbus, hrst, hb, hlt, hinstants, earliest]

theorem State.Undisturbed.reaches_deadline (h : s.Undisturbed) (hb : s.block.busy = true) (hle : s.now ≤ s.block.tDead) :
    s.Reaches (timeStep s.block.tDead s) := by
  obtain heq | hlt := hle.eq_or_lt
  · rw [← heq]
    exact .refl s
  · have hperform : perform s.nextAction s = .next (timeStep s.block.tDead s) := by rw [h.nextAction hb hlt, perform]
    have hstep := step_of_perform hperform
    rw [noteLines_timeStep] at hstep
    exact .of_step hstep

/-- A running command that nothing disturbs reaches its deadline, and there the Engine steps (00_scope.md R8, R9). -/
theorem State.Undisturbed.reaches_engineStep (h : s.Undisturbed) (hb : s.block.busy = true) (hle : s.now ≤ s.block.tDead)
    (he : engineStep (timeStep s.block.tDead s) = .next u) :
    ∃ t, s.Reaches t ∧ t.Undisturbed ∧ t.params = s.params ∧ t.now = s.block.tDead ∧ t.block = u.block
      ∧ t.obs.txdTrace = u.obs.txdTrace := by
  have hkept := engineStep_keeps_outside he
  have hdue : (timeStep s.block.tDead s).engineDue = true := (State.engineDue_iff _).mpr ⟨h.rstN, hb, le_rfl⟩
  have hstep : step (timeStep s.block.tDead s) = .next (noteLines (timeStep s.block.tDead s) u) :=
    step_of_perform (by rw [State.nextAction_of_engineDue (timeStep_undisturbed h _).resetDue hdue, perform, he])
  have hu := (timeStep_undisturbed h _).of_outsideKept hkept
  exact ⟨_, (h.reaches_deadline hb hle).trans (.of_step hstep), ⟨hu.rstN, hu.quiet, hu.exact⟩, hkept.params, hkept.now,
    rfl, rfl⟩

/-! The characters of a send (42_transport.md R175, R176). -/

theorem txChars_concat (charNs start : Nat) (xs : List Byte) (x : Byte) :
    txChars charNs start (xs ++ [x]) = txChars charNs start xs ++ [⟨x, start + xs.length * charNs, none⟩] := by
  induction xs generalizing start with
  | nil => simp [txChars]
  | cons y xs ih =>
    have hstart : start + charNs + xs.length * charNs = start + (xs.length + 1) * charNs := by ring
    simp [txChars, ih, hstart]

/-- The `txd` trace of the first k bytes of TXBUF, sent back to back from time start, and the byte after them. -/
theorem txChars_take_succ (charNs start : Nat) (b : Buf) {k : Nat} (hk : k < 8) :
    txChars charNs start (b.toList.take (k + 1))
      = txChars charNs start (b.toList.take k) ++ [⟨bufGet b k, start + k * charNs, none⟩] := by
  have hlen : k < b.toList.length := by simpa using hk
  have hget : bufGet b k = b.toList[k] := by simp [bufGet, hk]
  rw [List.take_succ_eq_append_getElem hlen, txChars_concat, List.length_take_of_le hlen.le, hget]

/-- Byte k of the send that settles in s goes on the wire in t, the bytes before it sent back to back (42_transport.md
R176). -/
structure State.Sends (s : State) (k : Nat) (t : State) : Prop where
  undisturbed : t.Undisturbed
  params : t.params = s.params
  now    : t.now = s.block.tDead + k * s.params.charNs
  block  : t.block = { s.block with phase := .shift, txIdx := k, tDead := t.now + s.params.charNs }
  trace  : t.obs.txdTrace
    = s.obs.txdTrace ++ txChars s.params.charNs s.block.tDead (s.block.txbuf.toList.take (k + 1))

theorem reaches_first_char (h : s.Undisturbed) (hp : s.block.phase = .settle) (hle : s.now ≤ s.block.tDead) :
    ∃ t, s.Reaches t ∧ s.Sends 0 t := by
  have he := engineStep_of_settle (s := timeStep s.block.tDead s) hp
  obtain ⟨t, hreach, hund, hpar, hnow, hblock, htrace⟩ :=
    h.reaches_engineStep (Block.busy_of_sending (by rw [hp]; rfl)) hle he
  refine ⟨t, hreach, hund, hpar, by simp [hnow], ?_, ?_⟩
  · rw [hblock, hnow]
    rfl
  · rw [htrace, txChars_take_succ _ _ _ (by decide), shiftOut_eq]
    simp [txChars]

theorem State.Sends.next {k : Nat} (h : s.Sends k t) (hk : k + 1 < s.block.txlen.toNat) (h8 : s.block.txlen.toNat ≤ 8) :
    ∃ u, t.Reaches u ∧ s.Sends (k + 1) u := by
  obtain ⟨hund, hpar, hnow, hblock, htrace⟩ := h
  have hp : t.block.phase = .shift := by rw [hblock]
  have hle : t.now ≤ t.block.tDead := by simp [hblock]
  have he := engineStep_of_shift (s := timeStep t.block.tDead t) hp (by simpa [hblock] using hk)
  obtain ⟨u, hreach, hund', hpar', hnow', hblock', htrace'⟩ :=
    hund.reaches_engineStep (Block.busy_of_sending (by rw [hp]; rfl)) hle he
  have hunow : u.now = s.block.tDead + (k + 1) * s.params.charNs := by
    rw [hnow', hblock, hnow]
    ring
  refine ⟨u, hreach, hund', hpar'.trans hpar, hunow, ?_, ?_⟩
  · rw [hblock', hnow', ← hpar, shiftOut_eq]
    simp [hblock]
  · rw [htrace', txChars_take_succ _ _ _ (by omega), ← List.append_assoc, ← htrace, ← hunow, hnow', shiftOut_eq]
    simp [hblock]

/-- Every byte of the send goes on the wire in its turn. -/
theorem reaches_char (h : s.Undisturbed) (hp : s.block.phase = .settle) (hle : s.now ≤ s.block.tDead)
    (h8 : s.block.txlen.toNat ≤ 8) {k : Nat} (hk : k < s.block.txlen.toNat) : ∃ t, s.Reaches t ∧ s.Sends k t := by
  induction k with
  | zero => exact reaches_first_char h hp hle
  | succ k ih =>
    obtain ⟨t, hst, ht⟩ := ih (by omega)
    obtain ⟨u, htu, hu⟩ := ht.next hk h8
    exact ⟨u, hst.trans htu, hu⟩

/-- The drain of the send that settles in s has begun in t, with every byte of TXBUF[0 .. TXLEN-1] sent (42_transport.md
R176). -/
structure State.Drains (s t : State) : Prop where
  undisturbed : t.Undisturbed
  now    : t.now = s.block.tDead + s.block.txlen.toNat * s.params.charNs
  block  : t.block = { s.block with
    phase := .drain, txIdx := s.block.txlen.toNat, tDead := t.now + 1000 * s.block.tDrain.toNat }
  trace  : t.obs.txdTrace = s.obs.txdTrace ++ txChars s.params.charNs s.block.tDead s.block.txBytes

theorem State.Sends.drains {k : Nat} (h : s.Sends k t) (hk : s.block.txlen.toNat = k + 1) :
    ∃ u, t.Reaches u ∧ s.Drains u := by
  obtain ⟨hund, hpar, hnow, hblock, htrace⟩ := h
  have hp : t.block.phase = .shift := by rw [hblock]
  have hle : t.now ≤ t.block.tDead := by simp [hblock]
  have he := engineStep_of_last_char (s := timeStep t.block.tDead t) hp (by simp [hblock, hk])
  obtain ⟨u, hreach, hund', -, hnow', hblock', htrace'⟩ :=
    hund.reaches_engineStep (Block.busy_of_sending (by rw [hp]; rfl)) hle he
  refine ⟨u, hreach, hund', ?_, ?_, ?_⟩
  · rw [hnow', hblock, hnow, hk]
    ring
  · rw [hblock', hnow', State.startPhase_block, State.deadline_mapBlock,
      State.deadline_of_default (timeStep_undisturbed hund _).exact]
    simp [hblock, hk, Block.enter, Block.setTxIdx]
  · rw [htrace', Block.txBytes, hk]
    exact htrace

/-- At the end of the drain SEND completes with OK (42_transport.md R177). -/
theorem State.Drains.completes (h : s.Drains t) (hop : s.block.op = .send) :
    ∃ u, t.Reaches u ∧ u.now = t.now + 1000 * s.block.tDrain.toNat
      ∧ u.block = { s.block with
          done := true, result := .ok, phase := .idle, op := .none, txIdx := s.block.txlen.toNat, tDead := u.now }
      ∧ u.obs.txdTrace = t.obs.txdTrace := by
  obtain ⟨hund, -, hblock, -⟩ := h
  have hp : t.block.phase = .drain := by rw [hblock]
  have hle : t.now ≤ t.block.tDead := by simp [hblock]
  have he := engineStep_of_send_drain (s := timeStep t.block.tDead t) hp (by simp [hblock, hop])
  obtain ⟨u, hreach, -, -, hnow', hblock', htrace'⟩ :=
    hund.reaches_engineStep (Block.busy_of_sending (by rw [hp]; rfl)) hle he
  refine ⟨u, hreach, ?_, ?_, htrace'⟩
  · rw [hnow', hblock]
  · rw [hblock', hnow']
    simp [hblock, Block.complete]

end

/-- Settles O60: from the settle SEND comes to each character in turn, then to the drain, and completes at its end. -/
theorem sendTakesExactly : Obligations.SendTakesExactly := by
  intro s u h hport h1 h8 hquiet hslack he
  obtain rfl := Host.Outcome.next.inj ((exec_send_of_open h ⟨h1, h8⟩ hport).symm.trans he)
  obtain ⟨hr, -⟩ := s.ready_iff.mp h
  have hund : (beginSend .send (s.mapBlock Block.accept)).Undisturbed := ⟨hr, hquiet, hslack⟩
  have hdead : (beginSend .send (s.mapBlock Block.accept)).block.tDead = s.now + 1000 * s.block.tSettle.toNat :=
    State.deadline_of_default hslack _
  obtain ⟨k, hk⟩ : ∃ k, s.block.txlen.toNat = k + 1 := ⟨_, (Nat.sub_add_cancel h1).symm⟩
  obtain ⟨t, hut, ht⟩ := reaches_char hund rfl (hdead ▸ Nat.le_add_right _ _) h8 (k := k) (hk ▸ Nat.lt_succ_self k)
  obtain ⟨d, htd, hd⟩ := ht.drains hk
  obtain ⟨e, hde, hnow, hblock, htrace⟩ := hd.completes rfl
  obtain ⟨n, hn⟩ := (hut.trans htd).trans hde
  refine ⟨n, e, hn, ?_, hblock, ?_⟩
  · rw [hnow, hd.now, hdead]
    rfl
  · rw [htrace, hd.trace, hdead]
    rfl

end Sys2Proof.Machine
end

section
/-! The transactions: acceptance, the check at the close of the window, and the ways they end (43_transactions.md R210 to
R216): O28, O29, O30, O26 and O27. -/

namespace Sys2Proof.Machine

section
variable {s t : State} {v : CrcVariant} {b : Block} {n : Nat}

/-! Acceptance (43_transactions.md R210, R213, 60_exceptions.md R244). -/

theorem exec_regXact_of_ready (h : s.ready = true) :
    exec .regXact s = .next (doTransaction .regXact 4 (s.mapBlock Block.accept)) := by
  rw [exec, execRegXact, command_of_legal h]

theorem exec_coilXact_of_ready (h : s.ready = true) :
    exec .coilXact s = .next (doTransaction .coilXact 2 (s.mapBlock Block.accept)) := by
  rw [exec, execCoilXact, command_of_legal h]

theorem doTransaction_of_open (op : BusOp) (n : Nat) (hport : s.block.portEn = true) :
    doTransaction op n s = beginSend op (s.mapBlock (Block.encodeIntoTxbuf s.params.crcVariant n)) :=
  withPort_of_open hport _

theorem doTransaction_of_closed (op : BusOp) (n : Nat) (hport : s.block.portEn = false) :
    doTransaction op n s = s.mapBlock (Block.complete .transportError) :=
  withPort_of_closed hport _

/-- The completion of a command that never ran: a block at rest is IDLE and has no op to give up (60_exceptions.md R241). -/
theorem Block.Rests.complete_accept (h : b.Rests v) (r : Result) :
    b.accept.complete r = { b with done := true, result := r } := by
  obtain ⟨hphase, hop, -, -⟩ := h
  rw [Block.complete, ← hphase, ← hop]
  rfl

theorem exec_xact_of_closed {i : Instr} (h : s.Inv) (hready : s.ready = true) (hi : i = .regXact ∨ i = .coilXact)
    (hport : s.block.portEn = false) :
    exec i s = .next { s with block := { s.block with done := true, result := .transportError } } := by
  obtain ⟨-, hidle⟩ := s.ready_iff.mp hready
  have hrests := h.block.rests (Block.phase_of_not_busy hidle)
  rw [← hrests.complete_accept]
  obtain rfl | rfl := hi
  · rw [exec_regXact_of_ready hready, doTransaction_of_closed (s := s.mapBlock Block.accept) _ _ hport]
    rfl
  · rw [exec_coilXact_of_ready hready, doTransaction_of_closed (s := s.mapBlock Block.accept) _ _ hport]
    rfl

/-! The check (43_transactions.md R212). -/

/-- The frame in the first n bytes of RXBUF, byte by byte (41_codec.md R142). -/
def Block.rxbufFrame (n : Nat) (b : Block) : Frame :=
  { addr := bufGet b.rxbuf 0, cmd := bufGet b.rxbuf 1
    data := (List.range (n - 4)).map fun k => bufGet b.rxbuf (k + 2)
    crc := bufGet b.rxbuf (n - 1) ++ bufGet b.rxbuf (n - 2) }

/-- The CRC of the bytes of RXBUF before the received CRC, for a total of n (40_crc.md R122). -/
def Block.rxbufCrc (v : CrcVariant) (n : Nat) (b : Block) : Half := crc16 v ((List.range (n - 2)).map (bufGet b.rxbuf))

theorem decodeBytes_rxBytes (hn : 2 ≤ n ∧ n ≤ 8) (h : n ≤ b.rxcnt.toNat) :
    decodeBytes b.rxBytes n = .frame (b.rxbufFrame n) := by
  obtain ⟨h2, h8⟩ := hn
  have hlen : n ≤ b.rxBytes.length := by rw [Block.rxBytes_length]; omega
  have hdata : (b.rxBytes.drop 2).take (n - 4) = (List.range (n - 4)).map fun k => bufGet b.rxbuf (k + 2) := by
    refine List.ext_getElem (by simp; omega) fun k hk _ => ?_
    have hk' : k < n - 4 := by simp at hk; omega
    rw [List.getElem_map, List.getElem_range, ← Block.rxBytes_getD (by omega)]
    simp [Nat.add_comm, show k + 2 < b.rxBytes.length by omega]
  rw [decodeBytes_of_long hlen, hdata]
  simp (disch := omega) only [Block.rxBytes_getD, Block.rxbufFrame]

theorem frameCrc_rxbufFrame (v : CrcVariant) (hn : n = 6 ∨ n = 7) :
    frameCrc v (b.rxbufFrame n).addr (b.rxbufFrame n).cmd (b.rxbufFrame n).data = b.rxbufCrc v n := by
  obtain rfl | rfl := hn <;> rfl

theorem rxFieldsOf_rxbufFrame (hn : n = 6 ∨ n = 7) :
    rxFieldsOf (b.rxbufFrame n) =
      { addr := bufGet b.rxbuf 0, cmd := bufGet b.rxbuf 1, d0 := bufGet b.rxbuf 2, d1 := bufGet b.rxbuf 3
        d2 := if n = 7 then bufGet b.rxbuf 4 else 0, d3 := 0
        crc := bufGet b.rxbuf (n - 1) ++ bufGet b.rxbuf (n - 2) } := by
  obtain rfl | rfl := hn <;> rfl

theorem Block.finishXact_of_short (h : b.rxcnt.toNat < b.rxN) : b.finishXact v = b.clearRxf.complete .shortRead := by
  rw [Block.finishXact, decodeBytes_of_short (by rw [Block.rxBytes_length]; omega)]

theorem Block.finishXact_of_match (hn : b.rxN = 6 ∨ b.rxN = 7) (h : b.rxN ≤ b.rxcnt.toNat)
    (hc : b.rxbufCrc v b.rxN = (b.rxbufFrame b.rxN).crc) :
    b.finishXact v =
      (((b.loadRxf b.rxN (b.rxbufFrame b.rxN)).setCrc (b.rxbufCrc v b.rxN)).setValid true).complete .ok := by
  rw [Block.finishXact, decodeBytes_rxBytes (by omega) h]
  dsimp only
  rw [frameCrc_rxbufFrame v hn, if_pos hc]

theorem Block.finishXact_of_mismatch (hn : b.rxN = 6 ∨ b.rxN = 7) (h : b.rxN ≤ b.rxcnt.toNat)
    (hc : b.rxbufCrc v b.rxN ≠ (b.rxbufFrame b.rxN).crc) :
    b.finishXact v = (b.setCrc (b.rxbufCrc v b.rxN)).clearRxf.complete .crcMismatch := by
  rw [Block.finishXact, decodeBytes_rxBytes (by omega) h]
  dsimp only
  rw [frameCrc_rxbufFrame v hn, if_neg hc]

theorem closeRx_of_xact (hop : s.block.op = .regXact ∨ s.block.op = .coilXact) :
    closeRx s = .next (s.mapBlock (Block.finishXact s.params.crcVariant)) := by
  obtain hop | hop := hop <;> rw [closeRx, hop]

/-! The end of a transaction (43_transactions.md R215). -/

/-- `finish_xact` leaves OK with a frame marked valid, or an error with none. -/
theorem Block.finishXact_outcome (v : CrcVariant) (b : Block) :
    ((b.finishXact v).result = .ok ∧ (b.finishXact v).valid = true
        ∧ (b.finishXact v).dlen = BitVec.ofNat 3 (b.rxN - 4))
      ∨ (((b.finishXact v).result = .shortRead ∨ (b.finishXact v).result = .crcMismatch)
        ∧ (b.finishXact v).valid = false ∧ (b.finishXact v).dlen = 0) := by
  unfold Block.finishXact
  split
  · exact .inr ⟨.inl rfl, rfl, rfl⟩
  · dsimp only
    split
    · exact .inl ⟨rfl, rfl, rfl⟩
    · exact .inr ⟨.inr rfl, rfl, rfl⟩

/-- The window of the transaction in b is open, and `finish_xact` leads to c: on b itself, or on b with a last byte
stored (42_transport.md R181, R182). -/
def Block.FinishesXact (v : CrcVariant) (b c : Block) : Prop :=
  b.phase = .rxwait ∧ ∃ r : Block, (r = b ∨ ∃ x, r = b.storeChar x) ∧ c = r.finishXact v

section
variable (hop : s.block.op = .regXact ∨ s.block.op = .coilXact)
include hop

theorem closeRx_xact (h : closeRx s = .next t) : t.block = s.block.finishXact s.params.crcVariant := by
  cases (closeRx_of_xact hop).symm.trans h
  rfl

/-- The Engine keeps a transaction running until it closes the window. -/
theorem engineStep_xact (h : engineStep s = .next t) :
    t.block.busy = true ∨ s.block.FinishesXact s.params.crcVariant t.block := by
  obtain ⟨-, rfl⟩ | ⟨-, rfl⟩ | ⟨-, hd⟩ | ⟨hp, hc⟩ := engineStep_next h
  · exact .inl rfl
  · unfold endChar
    split <;> exact .inl rfl
  · obtain ⟨hsend, -⟩ | ⟨-, rfl⟩ | ⟨-, rfl⟩ := endDrain_next hd
    · simp [hsend] at hop
    · exact .inl rfl
    · exact .inl rfl
  · exact .inr ⟨hp, _, .inl rfl, closeRx_xact hop hc⟩

theorem rxChar_xact {x : Byte} (h : rxChar x s = .next t) :
    t.block.busy = s.block.busy ∨ s.block.FinishesXact s.params.crcVariant t.block := by
  obtain ⟨-, rfl⟩ | ⟨-, -, rfl⟩ | ⟨hfit, -, hc⟩ := rxChar_next h
  · exact .inl rfl
  · exact .inl rfl
  · have hfin := closeRx_xact (s := s.mapBlock (Block.storeChar x)) hop hc
    exact .inr ⟨charFits_phase hfit, _, .inr ⟨x, rfl⟩, hfin⟩

theorem deliver_xact {c : Option Byte} (h : deliver c s = .next t) :
    t.block.busy = s.block.busy ∨ s.block.FinishesXact s.params.crcVariant t.block := by
  obtain ⟨-, rfl⟩ | ⟨-, x, -, hx⟩ | ⟨-, -, hx⟩ := deliver_next h
  · exact .inl rfl
  · exact rxChar_xact hop hx
  · exact rxChar_xact (s := { s with draws := s.draws + 1 }) hop hx

/-- Without reset a running transaction ends by `finish_xact` alone. -/
theorem step_xact (hbusy : s.block.busy = true) (h : step s = .next t) (hr : t.rstN = true) :
    t.block.busy = true ∨ s.block.FinishesXact s.params.crcVariant t.block := by
  obtain ⟨u, rfl, hu⟩ := step_cases h
  rw [noteLines_block]
  rw [noteLines_rstN] at hr
  obtain ⟨e, -, -, -, rfl⟩ | ⟨-, -, he⟩ | ⟨-, -, tie, c, -, -, -, hb⟩ | ⟨-, -, -, tie, c, cs, -, hh⟩
    | ⟨-, -, -, -, w, -, rfl⟩ := hu
  · cases hlevel : e.level
    · rw [hlevel] at hr
      cases hr
    · exact .inl hbusy
  · exact engineStep_xact hop he
  · have hd := deliver_xact (s := (s.popTie tie).popBus) (by rwa [State.popBus_block, State.popTie_block]) hb
    rw [State.popBus_block, State.popTie_block, State.popBus_params, State.popTie_params, hbusy] at hd
    exact hd
  · have hrun := hostStmt_run hh
    rw [State.ready_iff, State.popHost_block, State.popTie_block, hbusy] at hrun
    obtain hsame | ⟨⟨-, hidle⟩, -⟩ := hrun
    · exact .inl (hsame.busy.trans hbusy)
    · cases hidle
  · exact .inl hbusy

end

/-- A block of the invariant that names a transaction as its op is running it (10_state.md R38). -/
theorem Block.Inv.busy_of_xact (h : b.Inv v) (hop : b.op = .regXact ∨ b.op = .coilXact) : b.busy = true := by
  refine Bool.of_not_eq_false fun hidle => ?_
  have hnone := (h.rests (Block.phase_of_not_busy hidle)).op
  simp [hnone] at hop

/-- With no frame held, RXF0 and RXF1 read 0 (10_state.md R31 to R33). -/
theorem Block.frameFits.readReg_rxf (h : b.frameFits v) (h0 : b.dlen = 0) :
    b.readReg .rxf0 = 0 ∧ b.readReg .rxf1 = 0 := by
  obtain ⟨-, hzero, -⟩ := h
  rw [Block.readReg, Block.readReg, hzero h0]
  exact ⟨rfl, rfl⟩

/-! The truncated echo (43_transactions.md R216). -/

/-- Feeding the CRC its own two bytes gives 0, so feeding the low byte alone leaves the high byte. -/
theorem crcUpdate_crcLo (c : Half) : crcUpdate .modbus c (crcLo c) = (crcHi c).setWidth 16 := by
  have hresidue : crcUpdate .modbus (crcUpdate .modbus c (crcLo c)) (crcHi c) = 0 := by
    rw [crcUpdate_crcUpdate, crc_of_bytes]
    exact (crcBits_eq_zero_iff 16 _).mpr BitVec.xor_self
  exact BitVec.xor_eq_zero_iff.mp ((crcBits_eq_zero_iff 8 _).mp hresidue)

end

/-- Settles O28: the length decides first, and then the CRC of the frame in RXBUF. -/
theorem transactionCheckRule : Obligations.TransactionCheckRule := by
  intro s hs
  have hop : s.block.op = .regXact ∨ s.block.op = .coilXact := hs.imp And.left And.left
  have hn : s.block.rxN = 6 ∨ s.block.rxN = 7 := hs.symm.imp And.right And.right
  rw [closeRx_of_xact hop, State.mapBlock]
  refine ⟨fun h => ?short, fun h hc => ?ok, fun h hc => ?mismatch⟩
  case short =>
    rw [Block.finishXact_of_short h]
    rfl
  case ok =>
    rw [Block.finishXact_of_match hn h hc, Block.loadRxf, rxFieldsOf_rxbufFrame hn]
    rfl
  case mismatch =>
    rw [Block.finishXact_of_mismatch hn h hc]
    rfl

/-- Settles O29: a transaction ends by `finish_xact` alone, and by the invariant a frame marked valid passes the check and no
frame leaves RXF at 0. -/
theorem transactionResultIsNeverPartial : Obligations.TransactionResultIsNeverPartial := by
  refine ⟨fun s t h hop hstep hidle hr => ?_, fun s i => exec_xact_of_closed⟩
  have hframe : t.block.frameFits s.params.crcVariant := by
    obtain ⟨hparams, -⟩ := observationOnlyGrows s t hstep
    exact hparams ▸ (stepKeepsInvariant s t h hstep).block.frame
  obtain hbusy | ⟨hp, r, hstored, hfin⟩ := step_xact hop (h.block.busy_of_xact hop) hstep hr
  · rw [hbusy] at hidle; cases hidle
  obtain ⟨-, -, hreg, hcoil⟩ := h.block.window hp
  have hrn : r.rxN = s.block.rxN := by obtain rfl | ⟨x, rfl⟩ := hstored <;> rfl
  have houtcome := r.finishXact_outcome s.params.crcVariant
  rw [← hfin, hrn] at houtcome
  obtain ⟨hres, hvalid, hdlen⟩ | ⟨hres, hvalid, hdlen⟩ := houtcome
  · obtain ⟨-, -, -, -, hcheck⟩ := hframe
    exact .inl ⟨hres, hvalid, (hcheck hvalid).2, fun ho => hdlen.trans (by rw [hreg ho]; rfl),
      fun ho => hdlen.trans (by rw [hcoil ho]; rfl)⟩
  · exact .inr ⟨hres, hvalid, hdlen, hframe.readReg_rxf hdlen⟩

/-- Settles O30: the low byte of a CRC fed to it leaves its high byte, so the two together are the CRC; and a pair that is
the CRC ends in its low byte. -/
theorem truncatedEchoCheck : Obligations.TruncatedEchoCheck := by
  intro xs d3
  show crcLo (crc16 .modbus (xs ++ [d3])) ++ d3 = crc16 .modbus xs ↔ d3 = crcLo (crc16 .modbus xs)
  refine ⟨fun h => ?_, fun h => ?_⟩
  · rw [← h, crcLo_append]
  · have hlast : crc16 .modbus (xs ++ [d3]) = (crcHi (crc16 .modbus xs)).setWidth 16 := by
      rw [h, ← crcUpdate_crcLo]
      exact crc16_modbus_append xs _
    have hlow : crcLo (crc16 .modbus (xs ++ [d3])) = crcHi (crc16 .modbus xs) := by
      rw [hlast]
      exact (setWidth_fields 8 _).1
    rw [hlow, h, crc_of_bytes]

/-- Settles O26: REG_XACT's body is `encode_into_txbuf(4)` and `begin_send`, whose deadline lies between the two bounds. -/
theorem regXactStartsSettle : Obligations.RegXactStartsSettle := by
  intro s h hport
  obtain ⟨hr, -⟩ := s.ready_iff.mp h
  have he := exec_regXact_of_ready h
  rw [doTransaction_of_open (s := s.mapBlock Block.accept) _ _ hport] at he
  exact ⟨_, s.deadline s.block.tSettle, he, State.dir_of_released hr, rfl, s.le_deadline _, s.deadline_le _, rfl⟩

/-- Settles O27: COIL_XACT's body is `encode_into_txbuf(2)` and `begin_send`, whose deadline lies between the two bounds. -/
theorem coilXactStartsSettle : Obligations.CoilXactStartsSettle := by
  intro s h hport
  obtain ⟨hr, -⟩ := s.ready_iff.mp h
  have he := exec_coilXact_of_ready h
  rw [doTransaction_of_open (s := s.mapBlock Block.accept) _ _ hport] at he
  exact ⟨_, s.deadline s.block.tSettle, he, State.dir_of_released hr, rfl, s.le_deadline _, s.deadline_le _, rfl⟩

end Sys2Proof.Machine
end

section
/-! Commands that complete at once with an error, and the order of the checks on a write to CMD (60_exceptions.md R244,
R245, R252): O5, O6 and O7. -/

namespace Sys2Proof.Machine

open Laws.WordFields

/-- i is a bus command that no earlier check of 60_exceptions.md R252 stops, so that the port is checked. -/
def Block.ReachesPortCheck (b : Block) (i : Instr) : Prop :=
  (i = .send ∧ 1 ≤ b.txlen.toNat ∧ b.txlen.toNat ≤ 8) ∨ (∃ n : BitVec 4, 1 ≤ n.toNat ∧ n.toNat ≤ 8 ∧ i = .receive n)
    ∨ i = .regXact ∨ i = .coilXact

section
variable {s : State} {v : Word} {i : Instr}

/-- Each bus command is checked for the open port right after its acceptance (60_exceptions.md R244). -/
theorem exec_of_closed_port (h : s.ready = true) (hport : s.block.portEn = false)
    (hi : s.block.ReachesPortCheck i) :
    exec i s = .next (s.mapBlock fun b => b.accept.complete .transportError) := by
  have closed (f : State → State) : withPort f (s.mapBlock Block.accept)
      = s.mapBlock fun b => b.accept.complete .transportError :=
    withPort_of_closed (s := s.mapBlock Block.accept) hport f
  obtain ⟨rfl, hlen⟩ | ⟨n, hlo, hhi, rfl⟩ | rfl | rfl := hi
  · have hbody : doSend (s.mapBlock Block.accept) = withPort (beginSend .send) (s.mapBlock Block.accept) :=
      if_pos (txlenLegal_iff.mpr hlen)
    rw [exec, execSend, command_of_legal h, hbody, closed]
  · rw [exec, execReceive, countLegal_iff.mpr ⟨hlo, hhi⟩, command_of_legal h, doReceive, closed]
  · rw [exec_regXact_of_ready h, doTransaction, closed]
  · rw [exec_coilXact_of_ready h, doTransaction, closed]

/-- The OP numbers from 6 on are those of the bus commands (30_encoding.md R91). -/
theorem reachesPortCheck_of_decoded (hi : decodeWord v = .ok i) (hop : 6 ≤ (opField v).toNat)
    (hlen : v = 0x00000006 → 1 ≤ s.block.txlen.toNat ∧ s.block.txlen.toNat ≤ 8) :
    s.block.ReachesPortCheck i := by
  obtain ⟨-, -, hnum, -, -, hwf⟩ := decodeWord_ok_iff.mp hi
  rw [hnum] at hop
  cases i
  case send =>
    obtain ⟨-, hword⟩ := encodeOfDecode v _ hi
    exact .inl ⟨rfl, hlen hword.symm⟩
  case receive n =>
    obtain ⟨hlo, hhi⟩ := of_decide_eq_true hwf
    exact .inr (.inl ⟨n, hlo, hhi, rfl⟩)
  case regXact => exact .inr (.inr (.inl rfl))
  case coilXact => exact .inr (.inr (.inr rfl))
  all_goals simp [opNumber] at hop

/-- A command with its operand out of range completes as an illegal word does (30_encoding.md R95, log 21). -/
theorem exec_of_not_wf (h : s.ready = true) (hwf : i.wf = false) :
    exec i s = .next (s.mapBlock fun b => b.accept.complete .illegalCmd) := by
  cases i
  case encode n =>
    have hn : dataLenLegal n = false := hwf
    rw [exec, execEncode, hn, immediate, command_of_illegal h]
  case decode n =>
    have hn : totalLenLegal n = false := hwf
    rw [exec, execDecode, hn, immediate, command_of_illegal h]
  case receive n =>
    have hn : countLegal n = false := Bool.eq_false_iff.mpr fun hl => of_decide_eq_false hwf (countLegal_iff.mp hl)
    rw [exec, execReceive, hn, command_of_illegal h]
  all_goals cases hwf

/-- Under the invariant a command that completes at once changes DONE and RESULT alone (60_exceptions.md R241). -/
theorem State.Inv.complete_accept (h : s.Inv) (hready : s.ready = true) (r : Result) :
    s.mapBlock (fun b => b.accept.complete r) = { s with block := { s.block with done := true, result := r } } := by
  obtain ⟨-, hidle⟩ := s.ready_iff.mp hready
  rw [State.mapBlock, (h.block.rests (Block.phase_of_not_busy hidle)).complete_accept]

end

/-- Settles O5: the clauses in the order of R252, each by the rule of the check that decides. -/
theorem commandWriteCheckOrder : Obligations.CommandWriteCheckOrder := by
  intro off size v s
  refine ⟨fun hr => hostWrite_of_held hr v, fun hr hodd => hostWrite_of_odd hr (mt (admitted_iff off size).mp hodd) v,
    fun hr hb => (busyWritesAreIgnored.1 s v hr hb).1 .cmd (.inl rfl),
    fun h hv => hostWrite_of_not_decoded h (not_exists.mp hv), fun h hv hlen => ?txlen,
    fun h ⟨i, hi⟩ hop hlen hport => ?port, fun h i hi => hostWrite_of_decoded (s.ready_iff.mp h).1 hi,
    fun h i hwf => exec_of_not_wf h hwf⟩
  case txlen =>
    obtain rfl := hv
    exact (hostWrite_of_decoded (s.ready_iff.mp h).1 rfl).trans (exec_send_of_illegal_txlen h hlen)
  case port =>
    exact (hostWrite_of_decoded (s.ready_iff.mp h).1 hi).trans
      (exec_of_closed_port h hport (reachesPortCheck_of_decoded hi hop hlen))

/-- Settles O6: an illegal word and SEND with a bad TXLEN complete on acceptance, which finds the block at rest. -/
theorem illegalCommandHasNoOtherEffect : Obligations.IllegalCommandHasNoOtherEffect := by
  intro s h hready
  rw [← h.complete_accept hready]
  exact ⟨fun v hv => hostWrite_of_not_decoded hready (not_exists.mp hv), exec_send_of_illegal_txlen hready⟩

/-- Settles O7: a closed port completes the command on acceptance, which finds the block at rest. -/
theorem closedPortGivesTransportError : Obligations.ClosedPortGivesTransportError := by
  intro s h hready hport i hi
  rw [← h.complete_accept hready]
  exact exec_of_closed_port hready hport hi

end Sys2Proof.Machine
end

section
/-! The flags of STATUS that stay: DONE, BUSY_WR and RX_DROP through every step (60_exceptions.md R241, R247, R253): O55
and O56. -/

namespace Sys2Proof.Machine

/-- BUSY_WR and RX_DROP, where set in b, are set in c (60_exceptions.md R247). -/
structure Block.KeepsSticky (b c : Block) : Prop where
  busyWr : b.busyWr = true → c.busyWr = true
  rxDrop : b.rxDrop = true → c.rxDrop = true

/-- The command running in b has completed in c (60_exceptions.md R241). -/
structure Block.Completes (b c : Block) : Prop where
  running : b.busy = true
  idle    : c.busy = false
  done    : c.done = true

/-- BUSY and DONE are those of b, or its running command has completed. -/
def Block.GoesOn (b c : Block) : Prop := (c.busy = b.busy ∧ c.done = b.done) ∨ b.Completes c

/-- DONE = 1 only with no command running. -/
def Block.DoneFits (b : Block) : Prop := b.done = true → b.busy = false

section
variable {s t : State} {b c : Block} {i : Instr}

/-! The Engine and the Bus. -/

theorem Block.KeepsSticky.of_eq (hwr : c.busyWr = b.busyWr) (hdrop : c.rxDrop = b.rxDrop) : b.KeepsSticky c :=
  ⟨fun h => hwr.trans h, fun h => hdrop.trans h⟩

theorem Block.finishXact_done (v : CrcVariant) (b : Block) :
    (b.finishXact v).done = true ∧ b.KeepsSticky (b.finishXact v) := by
  unfold Block.finishXact
  split
  · exact ⟨rfl, .of_eq rfl rfl⟩
  · dsimp only
    split <;> exact ⟨rfl, .of_eq rfl rfl⟩

theorem closeRx_completes (hb : s.block.busy = true) (h : closeRx s = .next t) :
    s.block.KeepsSticky t.block ∧ s.block.Completes t.block := by
  obtain ⟨-, rfl⟩ | ⟨-, rfl⟩ := closeRx_next h
  · exact ⟨.of_eq rfl rfl, hb, rfl, rfl⟩
  · obtain ⟨hdone, hsticky⟩ := s.block.finishXact_done s.params.crcVariant
    exact ⟨hsticky, hb, Bool.eq_false_iff.mpr (Block.not_busy_of_idle (Block.finishXact_phase _ _)), hdone⟩

/-- The Engine keeps its command running or completes it (42_transport.md R175 to R183). -/
theorem engineStep_goesOn (h : engineStep s = .next t) : s.block.KeepsSticky t.block ∧ s.block.GoesOn t.block := by
  obtain ⟨hp, rfl⟩ | ⟨hp, rfl⟩ | ⟨hp, hd⟩ | ⟨hp, hc⟩ := engineStep_next h
  all_goals have hb : s.block.busy = true := by rw [Block.busy, hp]; rfl
  · exact ⟨.of_eq rfl rfl, .inl ⟨hb.symm, rfl⟩⟩
  · unfold endChar
    split <;> exact ⟨.of_eq rfl rfl, .inl ⟨hb.symm, rfl⟩⟩
  · obtain ⟨-, rfl⟩ | ⟨-, rfl⟩ | ⟨-, rfl⟩ := endDrain_next hd
    · exact ⟨.of_eq rfl rfl, .inr ⟨hb, rfl, rfl⟩⟩
    · exact ⟨.of_eq rfl rfl, .inl ⟨hb.symm, rfl⟩⟩
    · exact ⟨.of_eq rfl rfl, .inl ⟨hb.symm, rfl⟩⟩
  · exact (closeRx_completes hb hc).imp_right .inr

theorem rxChar_goesOn {x : Byte} (h : rxChar x s = .next t) :
    s.block.KeepsSticky t.block ∧ s.block.GoesOn t.block := by
  obtain ⟨-, rfl⟩ | ⟨-, -, rfl⟩ | ⟨hfit, -, hc⟩ := rxChar_next h
  · exact ⟨⟨id, fun _ => rfl⟩, .inl ⟨rfl, rfl⟩⟩
  · exact ⟨.of_eq rfl rfl, .inl ⟨rfl, rfl⟩⟩
  · obtain ⟨⟨hwr, hdrop⟩, hb, hidle, hdone⟩ := closeRx_completes (s := s.mapBlock (Block.storeChar x))
      (Block.busy_of_rxwait (charFits_phase hfit)) hc
    exact ⟨⟨hwr, hdrop⟩, .inr ⟨hb, hidle, hdone⟩⟩

theorem deliver_goesOn {d : Option Byte} (h : deliver d s = .next t) :
    s.block.KeepsSticky t.block ∧ s.block.GoesOn t.block := by
  obtain ⟨-, rfl⟩ | ⟨-, x, -, hx⟩ | ⟨-, -, hx⟩ := deliver_next h
  · exact ⟨.of_eq rfl rfl, .inl ⟨rfl, rfl⟩⟩
  · exact rxChar_goesOn hx
  · exact rxChar_goesOn (s := { s with draws := s.draws + 1 }) hx

/-! Commands. -/

theorem Block.doneFits_of_idle (h : b.phase = .idle) : b.DoneFits := fun _ =>
  Bool.eq_false_iff.mpr (Block.not_busy_of_idle h)

theorem Block.doneFits_of_not_done (h : b.done = false) : b.DoneFits := fun hdone => by simp [h] at hdone

theorem withPort_doneFits {f : State → State} (hf : (f s).block.DoneFits) : (withPort f s).block.DoneFits := by
  unfold withPort
  split
  · exact hf
  · exact Block.doneFits_of_idle rfl

theorem doSend_doneFits (h : s.block.done = false) : (doSend s).block.DoneFits := by
  unfold doSend
  split
  · exact withPort_doneFits (Block.doneFits_of_not_done h)
  · exact Block.doneFits_of_idle rfl

/-- A command that is not accepted leaves DONE alone; an accepted one leaves what its body does. -/
theorem command_done {l : Bool} {f : State → State} (hf : (f (s.mapBlock Block.accept)).block.DoneFits) :
    (command l f s).block.done = s.block.done ∨ s.ready = true ∧ (command l f s).block.DoneFits := by
  obtain ⟨-, h⟩ | ⟨-, -, h⟩ | ⟨hr, -, h⟩ | ⟨hr, -, h⟩ := command_cases l f s <;> rw [h]
  · exact .inl rfl
  · exact .inl rfl
  · exact .inr ⟨hr, Block.doneFits_of_idle rfl⟩
  · exact .inr ⟨hr, hf⟩

/-- Acceptance clears DONE, and only a completion, which ends in IDLE, sets it again (60_exceptions.md R241). -/
theorem exec_done (h : exec i s = .next t) :
    t.block.done = s.block.done ∨ s.ready = true ∧ t.block.DoneFits := by
  cases i <;> cases h
  case crcInit => exact command_done (Block.doneFits_of_idle rfl)
  case crcFeed => exact command_done (Block.doneFits_of_idle rfl)
  case encode => exact command_done (Block.doneFits_of_idle rfl)
  case decode => exact command_done (Block.doneFits_of_idle (doDecode_phase _ _))
  case validate => exact command_done (Block.doneFits_of_idle (doValidate_phase _ _))
  case send => exact command_done (doSend_doneFits rfl)
  case receive => exact command_done (withPort_doneFits (Block.doneFits_of_not_done rfl))
  case regXact => exact command_done (withPort_doneFits (Block.doneFits_of_not_done rfl))
  case coilXact => exact command_done (withPort_doneFits (Block.doneFits_of_not_done rfl))

theorem exec_sticky (h : exec i s = .next t) : s.block.KeepsSticky t.block := by
  obtain ⟨hf, -⟩ | ⟨-, rfl⟩ := exec_frame h
  · obtain ⟨-, -, hdrop, -⟩ := hf.fixed
    exact .of_eq hf.busyWr hdrop
  · exact ⟨fun _ => rfl, id⟩

theorem commandWrite_done {v : Word} (h : commandWrite v s = .next t) :
    s.block.KeepsSticky t.block ∧ (t.block.done = s.block.done ∨ s.ready = true ∧ t.block.DoneFits) := by
  obtain ⟨i, -, he⟩ | rfl := commandWrite_next h
  · exact ⟨exec_sticky he, exec_done he⟩
  · obtain ⟨-, h⟩ | ⟨-, -, h⟩ | ⟨hr, -, h⟩ | ⟨-, hl, -⟩ := command_cases false id s
    · rw [h]; exact ⟨.of_eq rfl rfl, .inl rfl⟩
    · rw [h]; exact ⟨⟨fun _ => rfl, id⟩, .inl rfl⟩
    · rw [h]; exact ⟨.of_eq rfl rfl, .inr ⟨hr, Block.doneFits_of_idle rfl⟩⟩
    · cases hl

/-! Host writes. -/

/-- A register stands at its own offset alone (10_state.md R20). -/
theorem eq_offset_of_regAt {off : Offset} {r : Reg} (h : regAt off = some r) : off = r.offset := by
  unfold regAt at h
  split at h <;> cases h <;> exact BitVec.eq_of_toNat_eq (by assumption)

/-- Of the register writes only that of STATUS clears a flag (20_memory.md R64). -/
theorem Block.writeReg_flags (b : Block) {r : Reg} (hr : r ≠ .status) (v : Word) :
    b.KeepsSticky (b.writeReg r v) ∧ (b.writeReg r v).done = b.done := by
  have guarded (w : Block → Block) (hw : b.KeepsSticky (w b) ∧ (w b).done = b.done) :
      b.KeepsSticky (b.guarded w) ∧ (b.guarded w).done = b.done := by
    unfold Block.guarded
    split
    · exact ⟨⟨fun _ => rfl, id⟩, rfl⟩
    · exact hw
  cases r
  case status => exact absurd rfl hr
  case ctrl | cmd | crc | rxb0 | rxb1 | rxf0 | rxf1 | rxinfo => exact ⟨.of_eq rfl rfl, rfl⟩
  case txf0 | txf1 | txb0 | txb1 | txlen | tSettle | tDrain | tRxto => exact guarded _ ⟨.of_eq rfl rfl, rfl⟩

/-- A host statement writes STATUS, or it keeps the two flags and DONE, but for an accepted word. -/
theorem hostStmt_flags {d : HostStmt} (h : hostStmt d s = .next t) :
    (∃ v, d = .wr 0x04 4 v ∧ t.block = s.block.writeStatus v)
      ∨ s.block.KeepsSticky t.block
        ∧ (t.block.done = s.block.done ∨ s.ready = true ∧ (∃ v, d = .wr 0x08 4 v) ∧ t.block.DoneFits) := by
  obtain ⟨off, size, v, rfl, hw⟩ | ⟨x, rfl⟩ | ⟨x, rfl⟩ | rfl := hostStmt_next h
  · obtain rfl | ⟨hr, hreg, hc⟩ | ⟨hr, r, -, hreg, rfl⟩ := hostWrite_next hw
    · exact .inr ⟨.of_eq rfl rfl, .inl rfl⟩
    all_goals
      obtain rfl := eq_offset_of_regAt hreg
      obtain rfl := size_of_hostWrite_next hr hw
    · obtain ⟨hsticky, hdone⟩ := commandWrite_done hc
      exact .inr ⟨hsticky, hdone.imp_right fun ⟨hready, hfits⟩ => ⟨hready, ⟨v, rfl⟩, hfits⟩⟩
    · by_cases hstatus : r = .status
      · subst hstatus
        exact .inl ⟨v, rfl, rfl⟩
      · obtain ⟨hsticky, hdone⟩ := s.block.writeReg_flags hstatus v
        exact .inr ⟨hsticky, .inl hdone⟩
  all_goals exact .inr ⟨.of_eq rfl rfl, .inl rfl⟩

/-- Everything a step can do to the flags: reset clears them; the host writes STATUS; or the two sticky flags stay, and
DONE with them but for a completion or an accepted word. -/
theorem step_flags (h : step s = .next t) :
    (t.rstN = false ∧ t.block = Block.reset)
      ∨ (∃ v rest, s.env.host = .wr 0x04 4 v :: rest ∧ t.block = s.block.writeStatus v)
      ∨ s.block.KeepsSticky t.block
        ∧ (t.block.done = s.block.done ∨ s.block.Completes t.block
          ∨ s.ready = true ∧ (∃ v rest, s.env.host = .wr 0x08 4 v :: rest) ∧ t.block.DoneFits) := by
  obtain ⟨u, rfl, hu⟩ := step_cases h
  rw [noteLines_block, noteLines_rstN]
  obtain ⟨e, -, -, -, rfl⟩ | ⟨-, -, he⟩ | ⟨-, -, tie, c, -, -, -, hb⟩ | ⟨-, -, -, tie, c, cs, hcs, hh⟩
    | ⟨-, -, -, -, v, -, rfl⟩ := hu
  · cases e.level
    · exact .inl ⟨rfl, rfl⟩
    · exact .inr (.inr ⟨.of_eq rfl rfl, .inl rfl⟩)
  · obtain ⟨hsticky, hon⟩ := engineStep_goesOn he
    exact .inr (.inr ⟨hsticky, hon.imp And.right .inl⟩)
  · have hd := deliver_goesOn hb
    rw [State.popBus_block, State.popTie_block] at hd
    obtain ⟨hsticky, hon⟩ := hd
    exact .inr (.inr ⟨hsticky, hon.imp And.right .inl⟩)
  · have hd := hostStmt_flags hh
    rw [State.ready, State.popHost_block, State.popTie_block, State.popHost_rstN, State.popTie_rstN] at hd
    obtain ⟨v, rfl, hack⟩ | ⟨hsticky, hdone | ⟨hready, ⟨v, rfl⟩, hfits⟩⟩ := hd
    · exact .inr (.inl ⟨v, cs, hcs, hack⟩)
    · exact .inr (.inr ⟨hsticky, .inl hdone⟩)
    · exact .inr (.inr ⟨hsticky, .inr (.inr ⟨hready, ⟨v, cs, hcs⟩, hfits⟩)⟩)
  · exact .inr (.inr ⟨.of_eq rfl rfl, .inl rfl⟩)

end

/-- Settles O55: a write refused while BUSY and a dropped character set their flag alone, and of all that a step can do
only reset and a write of STATUS clear one. -/
theorem stickyFlagsStay : Obligations.StickyFlagsStay := by
  refine ⟨fun s r v hr hb => (busyWritesAreIgnored.1 s v hr hb).1 r, fun s x hr hout => ?_, fun s t h => ?_⟩
  · rw [deliver_some hr]
    exact rxChar_of_outside (mt (charFits_iff s).mp hout) x
  · obtain ⟨hr, -⟩ | ⟨v, rest, hhost, ht⟩ | ⟨hsticky, -⟩ := step_flags h
    · exact ⟨fun _ _ => .inl hr, fun _ _ => .inl hr⟩
    · rw [ht, Block.writeStatus_busyWr, Block.writeStatus_rxDrop]
      exact ⟨fun hset hclear => .inr ⟨v, rest, hhost, by simpa [hset] using hclear⟩,
        fun hset hclear => .inr ⟨v, rest, hhost, by simpa [hset] using hclear⟩⟩
    · exact ⟨fun hset hclear => by simp [hsticky.busyWr hset] at hclear,
        fun hset hclear => by simp [hsticky.rxDrop hset] at hclear⟩

/-- Settles O56: of all that a step can do, reset, a written 1 and an accepted word clear DONE, and a completion and an
accepted word set it. -/
theorem completionIsAcknowledged : Obligations.CompletionIsAcknowledged := by
  refine ⟨fun s hr => ?_, fun s t h => ?_⟩
  · rw [State.irq, State.view_of_released hr, Block.irq]
  · obtain ⟨hr, ht⟩ | ⟨v, rest, hhost, ht⟩
      | ⟨-, hdone | ⟨hrun, hidle, hdone⟩ | ⟨hready, hcmd, hfits⟩⟩ := step_flags h
    · exact ⟨fun _ _ => .inl hr, fun _ hset => by rw [ht] at hset; cases hset⟩
    · rw [ht, Block.writeStatus_done]
      exact ⟨fun hset hclear => .inr (.inl ⟨v, rest, hhost, by simpa [hset] using hclear⟩),
        fun hclear hset => by simp [hclear] at hset⟩
    · rw [hdone]
      exact ⟨fun hset hclear => by simp [hset] at hclear, fun hclear hset => by simp [hclear] at hset⟩
    · exact ⟨fun _ hclear => by simp [hdone] at hclear, fun _ _ => ⟨hidle, .inl hrun⟩⟩
    · exact ⟨fun _ _ => .inr (.inr ⟨(s.ready_iff.mp hready).2, hcmd⟩), fun _ hset => ⟨hfits hset, .inr hcmd⟩⟩

end Sys2Proof.Machine
end

section
/-! A running command with nothing left in the scripts: each phase ends within two steps, and no phase passes the bound
(00_scope.md R9, 70_reset_and_hazards.md R281): O59. -/

namespace Sys2Proof.Machine

/-- The most Engine steps that the running command still takes: one for each phase and each character ahead
(42_transport.md R175 to R183). -/
def Block.phasesLeft (b : Block) : Nat :=
  match b.phase with
  | .idle   => 0
  | .settle => b.txlen.toNat + 3
  | .shift  => b.txlen.toNat - b.txIdx + 2
  | .drain  => 2
  | .rxwait => 1

section
variable {s t : State}

theorem Block.Inv.phasesLeft_le {v : CrcVariant} {b : Block} (h : b.Inv v) : b.phasesLeft ≤ 11 := by
  unfold Block.phasesLeft
  cases hp : b.phase with
  | settle | shift =>
    have hlen := (h.send.1 (by rw [hp]; rfl)).2
    dsimp only
    omega
  | idle | drain | rxwait => simp

theorem steps_keep_inv {n : Nat} (h : s.Inv) (hs : steps n s = .next t) : t.Inv := by
  induction n generalizing s with
  | zero => cases hs; exact h
  | succ n ih =>
    rw [steps] at hs
    cases hstep : step s with
    | next r => rw [hstep] at hs; exact ih (stepKeepsInvariant s r h hstep) hs
    | fault f => rw [hstep] at hs; cases hs
    | refused r => rw [hstep] at hs; cases hs

/-! The bound through an Engine step (70_reset_and_hazards.md R280, R281). -/

/-- With byte k going on the wire now, the bytes from k on are still to be sent (42_transport.md R175, R176). -/
theorem shiftOut_completesBy {k : Nat} (hk : k < s.block.txlen.toNat) :
    (shiftOut k s).completesBy
      = s.now + (s.block.txlen.toNat - k) * s.params.charNs + s.drainBound + s.windowBound := by
  have hleft : s.block.txlen.toNat - k = s.block.txlen.toNat - (k + 1) + 1 := by omega
  have hbound : (shiftOut k s).completesBy = s.now + s.params.charNs
      + (s.block.txlen.toNat - (k + 1)) * s.params.charNs + s.drainBound + s.windowBound := rfl
  rw [hbound, hleft, Nat.succ_mul]
  omega

/-- The drain that begins now, and a window after it, end within their bounds (42_transport.md R176). -/
theorem startDrain_completesBy (k : Nat) :
    ((s.mapBlock (Block.setTxIdx k)).startPhase .drain s.block.tDrain).completesBy
      ≤ s.now + s.drainBound + s.windowBound := by
  have hdrain : s.deadline s.block.tDrain ≤ s.now + s.drainBound := by
    rw [State.drainBound, ← Nat.add_assoc]
    exact s.deadline_le s.block.tDrain
  exact Nat.add_le_add_right hdrain _

/-- The window of a transaction that opens now ends within its bound (42_transport.md R178). -/
theorem openRx_completesBy (n : Nat) (hop : s.block.op ≠ .send) : (openRx n s).completesBy ≤ s.now + s.windowBound := by
  have hwindow : s.windowBound = 1000 * s.block.tRxto.toNat + s.params.timerSlackNs := by
    unfold State.windowBound
    split
    · next h => exact absurd h hop
    · rfl
  rw [hwindow, ← Nat.add_assoc]
  exact s.deadline_le s.block.tRxto

/-- A completed command is done now. -/
theorem State.completesBy_of_idle (h : s.block.phase = .idle) : s.completesBy = s.now := by
  rw [State.completesBy, h]

/-- The Engine's step at the deadline moves the bound no later. -/
theorem engineStep_completesBy (h : s.Inv) (hnow : s.now = s.block.tDead) (he : engineStep s = .next t) :
    t.completesBy ≤ s.completesBy := by
  obtain ⟨hp, rfl⟩ | ⟨hp, rfl⟩ | ⟨hp, hd⟩ | ⟨hp, hc⟩ := engineStep_next he
  · have hlen : 0 < s.block.txlen.toNat := (h.block.send.1 (by rw [hp]; rfl)).1
    have hbound : s.completesBy
        = s.block.tDead + s.block.txlen.toNat * s.params.charNs + s.drainBound + s.windowBound := by
      rw [State.completesBy, hp]
    rw [endSettle, shiftOut_completesBy hlen, hbound, hnow, Nat.sub_zero]
  · have hbound : s.completesBy = s.block.tDead + (s.block.txlen.toNat - (s.block.txIdx + 1)) * s.params.charNs
        + s.drainBound + s.windowBound := by
      rw [State.completesBy, hp]
    unfold endChar
    split
    · next hk => rw [shiftOut_completesBy hk, hbound, hnow]
    · have hdrain := startDrain_completesBy (s := s) (s.block.txIdx + 1)
      omega
  · have hbound : s.completesBy = s.now + s.windowBound := by rw [State.completesBy, hp, hnow]
    rw [hbound]
    obtain ⟨-, rfl⟩ | ⟨hop, rfl⟩ | ⟨hop, rfl⟩ := endDrain_next hd
    · rw [State.completesBy_of_idle rfl]
      exact Nat.le_add_right _ _
    · exact openRx_completesBy 7 (by simp [hop])
    · exact openRx_completesBy 6 (by simp [hop])
  · have hbound : s.completesBy = s.now := by rw [State.completesBy, hp, hnow]
    rw [State.completesBy_of_idle (closeRx_closes hp hc).phase, hbound, (closeRx_keeps_outside hc).now]

/-- The Engine's step leaves fewer phases. -/
theorem engineStep_phasesLeft (h : s.Inv) (he : engineStep s = .next t) :
    t.block.phasesLeft < s.block.phasesLeft := by
  obtain ⟨hp, rfl⟩ | ⟨hp, rfl⟩ | ⟨hp, hd⟩ | ⟨hp, hc⟩ := engineStep_next he
  · have hleft : s.block.phasesLeft = s.block.txlen.toNat + 3 := by rw [Block.phasesLeft, hp]
    rw [hleft]
    exact Nat.lt_succ_self (s.block.txlen.toNat + 2)
  · have hidx := h.block.send.2 hp
    have hleft : s.block.phasesLeft = s.block.txlen.toNat - s.block.txIdx + 2 := by rw [Block.phasesLeft, hp]
    rw [hleft]
    unfold endChar
    split
    · show s.block.txlen.toNat - (s.block.txIdx + 1) + 2 < _
      omega
    · show 2 < _
      omega
  · have hleft : s.block.phasesLeft = 2 := by rw [Block.phasesLeft, hp]
    rw [hleft]
    obtain ⟨-, rfl⟩ | ⟨-, rfl⟩ | ⟨-, rfl⟩ := endDrain_next hd
    · exact Nat.zero_lt_two
    · exact Nat.one_lt_two
    · exact Nat.one_lt_two
  · have hleft : s.block.phasesLeft = 1 := by rw [Block.phasesLeft, hp]
    rw [hleft, Block.phasesLeft, (closeRx_closes hp hc).phase]
    exact Nat.one_pos

/-! The steps of a quiet machine: Time to the deadline, and there the Engine. -/

theorem State.quiet_of_outsideKept (hq : s.quiet) (k : s.OutsideKept t) : t.quiet := by
  rwa [State.quiet, k.env]

theorem State.resetDue_of_quiet (hq : s.quiet) : s.resetDue = false := by
  obtain ⟨-, -, hrst⟩ := hq
  rw [State.resetDue, hrst]

/-- With nothing left in the scripts, Time goes to the deadline of the running command in at most one step (00_scope.md
R9). -/
theorem State.Inv.steps_to_deadline (h : s.Inv) (hb : s.block.busy = true) (hq : s.quiet) :
    ∃ n ≤ 1, steps n s = .next (timeStep s.block.tDead s) := by
  obtain heq | hlt := (h.onTime hb).eq_or_lt
  · exact ⟨0, Nat.zero_le _, by rw [← heq]; rfl⟩
  · have hview := State.view_of_released (h.released_of_busy hb).rstN
    obtain ⟨hhost, hbus, hrst⟩ := hq
    have hinstants : s.instants = [s.block.tDead] := by
      simp [State.instants, hview, hhost, hbus, hrst, hb]
    have hact : s.nextAction = .time s.block.tDead := by
      simp [State.nextAction, State.resetDue, State.engineDue, State.busDue, State.hostReady, hview, hhost, hbus, hrst,
        hb, hlt, hinstants, earliest]
    have hstep := step_of_perform (s := s) (u := timeStep s.block.tDead s) (by rw [hact, perform])
    rw [noteLines_timeStep] at hstep
    exact ⟨1, le_rfl, by rw [steps, hstep]; rfl⟩

/-- What the end of a phase leaves from s: fewer phases left, the bound no later, and the command running on or
completed, with the scripts still empty. -/
structure State.EndsPhase (s t : State) : Prop where
  inv   : t.Inv
  quiet : t.quiet
  left  : t.block.phasesLeft < s.block.phasesLeft
  bound : t.completesBy ≤ s.completesBy
  next  : t.block.busy = true ∨ s.block.Completes t.block

/-- At its deadline a running command's step is the Engine's (00_scope.md R9). -/
theorem State.Inv.step_at_deadline (h : s.Inv) (hb : s.block.busy = true) (hq : s.quiet)
    (hnow : s.now = s.block.tDead) : ∃ t, step s = .next t ∧ s.EndsPhase t := by
  obtain ⟨u, hu⟩ := engineStep_answers_next h hb
  have hdue : s.engineDue = true := s.engineDue_iff.mpr ⟨(h.released_of_busy hb).rstN, hb, hnow.ge⟩
  have hstep : step s = .next (noteLines s u) :=
    step_of_perform (by rw [State.nextAction_of_engineDue (State.resetDue_of_quiet hq) hdue, perform, hu])
  obtain ⟨-, hon⟩ := engineStep_goesOn hu
  exact ⟨noteLines s u, hstep,
    { inv   := stepKeepsInvariant _ _ h hstep
      quiet := State.quiet_of_outsideKept (t := u) hq (engineStep_keeps_outside hu)
      left  := engineStep_phasesLeft (t := u) h hu
      bound := engineStep_completesBy (t := u) h hnow hu
      next  := hon.imp_left fun ⟨hbusy, _⟩ => hbusy.trans hb }⟩

/-- The bound of a running command does not read the time. -/
theorem timeStep_completesBy (hb : s.block.busy = true) (v : Nat) : (timeStep v s).completesBy = s.completesBy := by
  unfold State.completesBy
  rw [timeStep_block]
  cases hp : s.block.phase with
  | idle => exact absurd hb (Block.not_busy_of_idle hp)
  | settle | shift | drain | rxwait => rfl

/-- A running command that nothing disturbs ends its phase in at most two steps. -/
theorem State.Inv.steps_to_next_phase (h : s.Inv) (hb : s.block.busy = true) (hq : s.quiet) :
    ∃ n ≤ 2, ∃ t, steps n s = .next t ∧ s.EndsPhase t := by
  obtain ⟨n, hn, hdead⟩ := h.steps_to_deadline hb hq
  obtain ⟨t, hstep, ht⟩ := (steps_keep_inv h hdead).step_at_deadline hb hq rfl
  refine ⟨n + 1, by omega, t, ?_, ht.inv, ht.quiet, ht.left, timeStep_completesBy hb _ ▸ ht.bound, ht.next⟩
  rw [steps_add hdead, steps, hstep]
  rfl

/-- With m phases left at most, the command completes in at most 2 m steps. -/
theorem State.Inv.completes_in_steps (h : s.Inv) (hb : s.block.busy = true) (hq : s.quiet) {m : Nat}
    (hm : s.block.phasesLeft ≤ m) :
    ∃ n t, n ≤ 2 * m ∧ steps n s = .next t ∧ t.block.busy = false ∧ t.block.done = true ∧ t.now ≤ s.completesBy := by
  induction m generalizing s with
  | zero =>
    obtain ⟨-, -, t, -, ht⟩ := h.steps_to_next_phase hb hq
    exact absurd (ht.left.trans_le hm) (Nat.not_lt_zero _)
  | succ m ih =>
    obtain ⟨n, hn, t, ht, hinv, hquiet, hleft, hbound, hbusy | hcompletes⟩ := h.steps_to_next_phase hb hq
    · obtain ⟨k, u, hk, hu, hidle, hdone, hnow⟩ := ih hinv hbusy hquiet (by omega)
      exact ⟨n + k, u, by omega, (steps_add ht k).trans hu, hidle, hdone, hnow.trans hbound⟩
    · rw [State.completesBy_of_idle (Block.phase_of_not_busy hcompletes.idle)] at hbound
      exact ⟨n, t, by omega, ht, hcompletes.idle, hcompletes.done, hbound⟩

end

/-- Settles O59: at most 11 phases and characters are left, each ends within two steps, and the bound moves no later. -/
theorem runningCommandCompletes : Obligations.RunningCommandCompletes := by
  intro s h hb hq
  obtain ⟨n, t, hn, hrest⟩ := h.completes_in_steps hb hq h.block.phasesLeft_le
  exact ⟨n, t, hn.trans (by decide), hrest⟩

end Sys2Proof.Machine
end

section
/-! A running command through every step: what the Host, the Bus, the reset input and Time leave of its bound
(20_memory.md R65, 42_transport.md R182, 70_reset_and_hazards.md R281): O58. -/

namespace Sys2Proof.Machine

section
variable {s t : State}

/-- The bound reads the parameters, the block and the time alone. -/
theorem State.completesBy_congr (hp : t.params = s.params) (hb : t.block = s.block) (hn : t.now = s.now) :
    t.completesBy = s.completesBy := by
  simp only [State.completesBy, State.drainBound, State.windowBound, hp, hb, hn]

/-- A running command is bounded by its present deadline and more (70_reset_and_hazards.md R281). -/
theorem State.tDead_le_completesBy (hb : s.block.busy = true) : s.block.tDead ≤ s.completesBy := by
  unfold State.completesBy
  cases hp : s.block.phase with
  | idle => exact absurd hb (Block.not_busy_of_idle hp)
  | settle | shift | drain | rxwait => dsimp only; omega

/-! The Bus: a character sets RX_DROP, goes to RXBUF, or closes the window (42_transport.md R179 to R182). -/

theorem rxChar_completesBy {x : Byte} (h : rxChar x s = .next t) (hb : t.block.busy = true) :
    t.completesBy = s.completesBy := by
  obtain ⟨-, rfl⟩ | ⟨-, -, rfl⟩ | ⟨hfit, -, hc⟩ := rxChar_next h
  · rfl
  · rfl
  · have hcl := closeRx_closes (s := s.mapBlock (Block.storeChar x)) (charFits_phase hfit) hc
    exact absurd hb (Block.not_busy_of_idle hcl.phase)

theorem deliver_completesBy {c : Option Byte} (h : deliver c s = .next t) (hb : t.block.busy = true) :
    t.completesBy = s.completesBy := by
  obtain ⟨-, rfl⟩ | ⟨-, x, -, hx⟩ | ⟨-, -, hx⟩ := deliver_next h
  · rfl
  · exact rxChar_completesBy hx hb
  · exact (rxChar_completesBy hx hb).trans (State.completesBy_congr rfl rfl rfl)

/-! The Host: while BUSY a write touches flags and enables alone (20_memory.md R65). -/

theorem writeReg_completesBy (hb : s.block.busy = true) (r : Reg) (v : Word) :
    (s.mapBlock fun b => b.writeReg r v).completesBy = s.completesBy := by
  rw [State.mapBlock]
  obtain heq | heq | heq | ⟨w, heq, -⟩ := s.block.writeReg_cases r v <;> rw [heq]
  · rfl
  · rfl
  · rw [Block.guarded_of_busy hb]
    rfl

theorem hostWrite_completesBy (hb : s.block.busy = true) {off : Offset} {size : Nat} {v : Word}
    (h : hostWrite off size v s = .next t) : t.completesBy = s.completesBy := by
  obtain rfl | ⟨hr, -, hc⟩ | ⟨-, r, -, -, rfl⟩ := hostWrite_next h
  · rfl
  · cases (commandWrite_of_busy hr hb v).symm.trans hc
    rfl
  · exact writeReg_completesBy hb r v

theorem hostStmt_completesBy (hb : s.block.busy = true) {c : HostStmt} (h : hostStmt c s = .next t) :
    t.completesBy = s.completesBy := by
  obtain ⟨_, _, _, -, hw⟩ | ⟨v, rfl⟩ | ⟨v, rfl⟩ | rfl := hostStmt_next h
  · exact hostWrite_completesBy hb hw
  all_goals rfl

/-- From a state of the invariant, no step that leaves the command running moves its bound later. -/
theorem step_completesBy (h : s.Inv) (hb : s.block.busy = true) (hstep : step s = .next t)
    (ht : t.block.busy = true) : t.completesBy ≤ s.completesBy := by
  obtain ⟨u, rfl, hu⟩ := step_cases hstep
  have hnoted : (noteLines s u).completesBy = u.completesBy := State.completesBy_congr rfl rfl rfl
  rw [hnoted]
  rw [noteLines_block] at ht
  obtain ⟨e, -, -, -, rfl⟩ | ⟨-, hdue, he⟩ | ⟨-, -, tie, c, -, -, -, hd⟩ | ⟨-, -, -, tie, c, -, -, hh⟩
    | ⟨-, -, -, -, v, -, rfl⟩ := hu
  · cases hl : e.level with
    | true => exact (State.completesBy_congr rfl rfl rfl).le
    | false =>
      rw [hl] at ht
      exact absurd ht (Block.not_busy_of_idle rfl)
  · exact engineStep_completesBy h (h.now_eq_of_engineDue hdue) he
  · exact ((deliver_completesBy hd ht).trans (State.completesBy_congr (by simp) (by simp) (by simp))).le
  · exact ((hostStmt_completesBy (by simpa using hb) hh).trans
      (State.completesBy_congr (by simp) (by simp) (by simp))).le
  · exact (timeStep_completesBy hb v).le

end

/-- Settles O58: of the agents only the Engine moves the bound of a running command, and never later; and by the invariant
`now` has not passed the deadline, which the bound never precedes. -/
theorem nothingExtendsARunningCommand : Obligations.NothingExtendsARunningCommand := by
  intro s t h hb hstep ht
  have hinv := stepKeepsInvariant s t h hstep
  exact ⟨step_completesBy h hb hstep ht, (hinv.onTime ht).trans (State.tDead_le_completesBy ht)⟩

end Sys2Proof.Machine
end

section
/-! The bound of a command at its acceptance (30_encoding.md R95, 70_reset_and_hazards.md R281): O57. -/

namespace Sys2Proof.Machine

/-- The time by which a command accepted in s has completed: every timed phase, each with its slack, and eight characters
(70_reset_and_hazards.md R281, log 4). -/
def State.acceptBound (s : State) : Nat :=
  s.now + 1000 * (s.block.tSettle.toNat + s.block.tDrain.toNat + s.block.tRxto.toNat) + 8 * s.params.charNs
    + 3 * s.params.timerSlackNs

/-- What a command accepted in s leaves: it runs or has completed, within the bound of s. -/
structure State.RunsWithin (s t : State) : Prop where
  bound : t.completesBy ≤ s.acceptBound
  next  : t.block.busy = true ∨ t.block.busy = false ∧ t.block.done = true

/-- The block is left by a completion (60_exceptions.md R241). -/
def Block.Completed (b : Block) : Prop := ∃ r c, b = Block.complete r c

section
variable {s t : State} {v : CrcVariant} {b : Block}

/-! Commands that complete at once (41_codec.md R147, R148). -/

theorem doDecode_completed (n : Nat) : (doDecode n b).Completed := by
  unfold doDecode
  split <;> exact ⟨_, _, rfl⟩

theorem doValidate_completed : (doValidate v b).Completed := by
  unfold doValidate
  dsimp only
  split
  · exact ⟨_, _, rfl⟩
  · split <;> exact ⟨_, _, rfl⟩

theorem mapBlock_runsWithin {f : Block → Block} (hf : (f s.block).Completed) : s.RunsWithin (s.mapBlock f) := by
  obtain ⟨r, c, hc⟩ := hf
  have hblock : (s.mapBlock f).block = c.complete r := hc
  constructor
  case bound =>
    rw [State.completesBy_of_idle (by rw [hblock]; rfl), State.mapBlock_now, State.acceptBound]
    omega
  case next =>
    rw [hblock]
    exact .inr ⟨rfl, rfl⟩

/-! Bus commands (42_transport.md R174, R184; 43_transactions.md R210, R213). -/

theorem State.windowBound_le (s : State) : s.windowBound ≤ 1000 * s.block.tRxto.toNat + s.params.timerSlackNs := by
  unfold State.windowBound
  split
  · exact Nat.zero_le _
  · exact le_rfl

/-- A send of at most eight bytes (42_transport.md R174). -/
theorem beginSend_runsWithin (op : BusOp) (hlen : s.block.txlen.toNat ≤ 8) : s.RunsWithin (beginSend op s) where
  bound := by
    have hbound : (beginSend op s).completesBy = s.deadline s.block.tSettle + s.block.txlen.toNat * s.params.charNs
        + s.drainBound + (s.mapBlock (Block.setOp op)).windowBound := rfl
    have hsettle := s.deadline_le s.block.tSettle
    have hchars := Nat.mul_le_mul_right s.params.charNs hlen
    have hwindow : (s.mapBlock (Block.setOp op)).windowBound ≤ 1000 * s.block.tRxto.toNat + s.params.timerSlackNs :=
      State.windowBound_le _
    rw [hbound, State.drainBound, State.acceptBound]
    omega
  next := .inl rfl

theorem openReceive_runsWithin (n : Nat) : s.RunsWithin (openRx n (s.mapBlock (Block.setOp .receive))) where
  bound := by
    have hwindow : (openRx n (s.mapBlock (Block.setOp .receive))).completesBy
        ≤ s.now + (1000 * s.block.tRxto.toNat + s.params.timerSlackNs) := openRx_completesBy n nofun
    rw [State.acceptBound]
    omega
  next := .inl rfl

theorem withPort_runsWithin {f : State → State} (hf : s.RunsWithin (f s)) : s.RunsWithin (withPort f s) := by
  unfold withPort
  split
  · exact hf
  · exact mapBlock_runsWithin ⟨_, _, rfl⟩

theorem doSend_runsWithin : s.RunsWithin (doSend s) := by
  unfold doSend
  split
  · next hlen => exact withPort_runsWithin (beginSend_runsWithin .send (txlenLegal_iff.mp hlen).2)
  · exact mapBlock_runsWithin ⟨_, _, rfl⟩

/-- A transaction sends a request of n + 4 bytes (43_transactions.md R210, R213). -/
theorem doTransaction_runsWithin (op : BusOp) {n : Nat} (hn : n + 4 ≤ 8) : s.RunsWithin (doTransaction op n s) := by
  have hlen : (s.mapBlock (Block.encodeIntoTxbuf s.params.crcVariant n)).block.txlen.toNat ≤ 8 :=
    (Nat.mod_le _ _).trans hn
  obtain ⟨hbound, hnext⟩ := beginSend_runsWithin op hlen
  exact withPort_runsWithin ⟨hbound, hnext⟩

/-- The frame of a command that can be accepted: an illegal operand completes it, and a legal one leaves what its body does
(30_encoding.md R95). -/
theorem command_runsWithin (hr : s.ready = true) {l : Bool} {f : State → State}
    (hf : (s.mapBlock Block.accept).RunsWithin (f (s.mapBlock Block.accept))) : s.RunsWithin (command l f s) := by
  cases l with
  | false =>
    rw [command_of_illegal hr]
    exact mapBlock_runsWithin ⟨_, _, rfl⟩
  | true =>
    rw [command_of_legal hr]
    exact ⟨hf.bound, hf.next⟩

/-- Every command that can be accepted runs within R281's bound or completes at once. -/
theorem exec_runsWithin (hr : s.ready = true) {i : Instr} (h : exec i s = .next t) : s.RunsWithin t := by
  cases i <;> cases h
  case crcInit => exact command_runsWithin hr (mapBlock_runsWithin ⟨_, _, rfl⟩)
  case crcFeed => exact command_runsWithin hr (mapBlock_runsWithin ⟨_, _, rfl⟩)
  case encode => exact command_runsWithin hr (mapBlock_runsWithin ⟨_, _, rfl⟩)
  case decode n => exact command_runsWithin hr (mapBlock_runsWithin (doDecode_completed n.toNat))
  case validate => exact command_runsWithin hr (mapBlock_runsWithin doValidate_completed)
  case send => exact command_runsWithin hr doSend_runsWithin
  case receive n => exact command_runsWithin hr (withPort_runsWithin (openReceive_runsWithin n.toNat))
  case regXact => exact command_runsWithin hr (doTransaction_runsWithin .regXact (by decide))
  case coilXact => exact command_runsWithin hr (doTransaction_runsWithin .coilXact (by decide))

end

/-- Settles O57: the accepted command runs within the bound or has completed; and a running one that nothing disturbs
completes by its own bound. -/
theorem acceptedCommandBound : Obligations.AcceptedCommandBound := by
  intro i s t hr he bound
  obtain ⟨hbound, hnext⟩ := exec_runsWithin hr he
  have hkept := exec_keeps_outside he
  refine ⟨hbound, fun hinv hq => ?_⟩
  obtain hbusy | ⟨hidle, hdone⟩ := hnext
  · obtain ⟨n, u, hn, hu, hidle, hdone, hnow⟩ :=
      runningCommandCompletes t (exec_inv hinv he) hbusy (State.quiet_of_outsideKept hq hkept)
    exact ⟨n, u, hn, hu, hidle, hdone, hnow.trans hbound⟩
  · rw [State.completesBy_of_idle (Block.phase_of_not_busy hidle)] at hbound
    exact ⟨0, t, Nat.zero_le _, rfl, hidle, hdone, hbound⟩

end Sys2Proof.Machine
end

section
/-! Reset: its falling edge, the command it aborts, the time it is held, and the state after it (70_reset_and_hazards.md
R270 to R272): O39, O40, O41 and O45. -/

namespace Sys2Proof.Machine

section
variable {s t : State}

/-! The falling edge (70_reset_and_hazards.md R270, R271). -/

/-- A due edge of `rst_n` is the next step, whatever else is due (70_reset_and_hazards.md R270, log 10). -/
theorem step_of_rst_edge {e : Edge} {es : List Edge} (hrst : s.env.rst = e :: es) (hle : e.time ≤ s.now) :
    step s = .next (noteLines s (s.popRst.setRst e.level)) := by
  have hdue : s.resetDue = true := s.resetDue_iff.mpr ⟨e, es, hrst, hle⟩
  refine step_of_perform ?_
  rw [State.nextAction, if_pos hdue, perform, resetStep, hrst]

/-- The last character of the trace is the one that is cut off (70_reset_and_hazards.md R271). -/
theorem truncateLast_concat (now : Nat) (pre : List TxChar) (c : TxChar) :
    truncateLast now (pre ++ [c]) = pre ++ [{ c with truncated := some now }] := by
  induction pre with
  | nil => rfl
  | cons d pre ih =>
    cases pre with
    | nil => rfl
    | cons e pre => exact congrArg (d :: ·) ih

/-- A falling edge with a released block in SHIFT before the end of the character marks the trace; in any other phase it
leaves the trace alone (70_reset_and_hazards.md R271, log 17). -/
theorem setRst_false_txdTrace (hr : s.rstN = true) :
    (s.block.phase = .shift → s.now < s.block.tDead →
        (s.setRst false).obs.txdTrace = truncateLast s.now s.obs.txdTrace)
      ∧ (s.block.phase ≠ .shift → (s.setRst false).obs.txdTrace = s.obs.txdTrace) := by
  have htrace : (s.setRst false).obs.txdTrace
      = if s.charOnWire then truncateLast s.now s.obs.txdTrace else s.obs.txdTrace := rfl
  rw [htrace, State.charOnWire, State.view_of_released hr]
  exact ⟨fun hp hlt => by simp [hp, hlt], fun hp => by simp [hp]⟩

/-! The end of a running command (70_reset_and_hazards.md R271, 60_exceptions.md R241). -/

/-- Everything a step can do to a running command: reset aborts it, it goes on, or it completes. -/
theorem step_running (hb : s.block.busy = true) (h : step s = .next t) :
    t.rstN = false ∨ t.block.busy = true ∨ s.block.Completes t.block := by
  have of_goesOn {b : Block} (hon : s.block.GoesOn b) : b.busy = true ∨ s.block.Completes b :=
    hon.imp_left fun ⟨hbusy, _⟩ => hbusy.trans hb
  obtain ⟨u, rfl, hu⟩ := step_cases h
  rw [noteLines_block, noteLines_rstN]
  obtain ⟨e, -, -, -, rfl⟩ | ⟨-, -, he⟩ | ⟨-, -, tie, c, -, -, -, hd⟩ | ⟨-, -, -, tie, c, -, -, hh⟩
    | ⟨-, -, -, -, v, -, rfl⟩ := hu
  · cases e.level
    · exact .inl rfl
    · exact .inr (.inl hb)
  · exact .inr (of_goesOn (engineStep_goesOn he).2)
  · have hon := (deliver_goesOn hd).2
    rw [State.popBus_block, State.popTie_block] at hon
    exact .inr (of_goesOn hon)
  · have hrun := hostStmt_run hh
    rw [State.ready, State.popHost_block, State.popTie_block] at hrun
    obtain hsame | ⟨hready, -⟩ := hrun
    · exact .inr (.inl (hsame.busy.trans hb))
    · simp [hb] at hready
  · exact .inr (.inl hb)

/-! Reset held (70_reset_and_hazards.md R270, R272). -/

/-- While `rst_n` is 0 the lines are at rest (70_reset_and_hazards.md R270). -/
theorem State.lines_of_held (h : s.rstN = false) : s.dir = true ∧ s.txd = true ∧ s.irq = false := by
  refine ⟨?_, (txdRestsOutsideShift s).2.1 h, ?_⟩
  · rw [State.dir, State.view_of_held h]
    rfl
  · rw [State.irq, State.view_of_held h]
    rfl

theorem exec_of_held (h : s.rstN = false) (i : Instr) : exec i s = .next s := by
  obtain ⟨l, f, he, -⟩ := exec_eq_command i s
  rw [he, command_of_held h]

theorem deliver_of_held (h : s.rstN = false) (c : Option Byte) : deliver c s = .next s := by
  unfold deliver
  exact if_pos h

end

/-- Settles O39: the due edge is the step, it puts `Block.reset` in place of the block, and a held block is shown as
`Block.reset`, register by register. -/
theorem resetGivesResetValues : Obligations.ResetGivesResetValues := by
  refine ⟨fun s e es hrst hle hl => ?_, fun u hu => ?_⟩
  · refine ⟨_, step_of_rst_edge hrst hle, ?_⟩
    rw [hl]
    exact ⟨rfl, rfl, rfl⟩
  · obtain ⟨hdir, htxd, hirq⟩ := State.lines_of_held hu
    rw [State.view_of_held hu]
    refine ⟨hdir, htxd, hirq, ⟨rfl, rfl, rfl, rfl, rfl, rfl⟩, fun r => ?_⟩
    cases r <;> rfl

/-- Settles O40: the due edge is the step, and it leaves the reset values and the mark in the trace; and of all that a step
can do to a running command only reset and a completion end it. -/
theorem resetAbortsTheCommand : Obligations.ResetAbortsTheCommand := by
  refine ⟨fun s e es hrst hle hl hr _ => ?_, fun s t hb h hidle => ?_⟩
  · refine ⟨_, step_of_rst_edge hrst hle, ?_⟩
    rw [hl]
    obtain ⟨hdir, htxd, hirq⟩ := State.lines_of_held (s := noteLines s (s.popRst.setRst false)) rfl
    obtain ⟨hcut, hkept⟩ := setRst_false_txdTrace (s := s.popRst) hr
    refine ⟨rfl, rfl, rfl, hirq, hdir, htxd, fun pre c htrace hp hlt => ?_, hkept⟩
    have hlast : s.popRst.obs.txdTrace = pre ++ [c] := htrace
    rw [noteLines_txdTrace, hcut hp hlt, hlast, truncateLast_concat, State.popRst_now]
  · obtain hr | hbusy | hcompletes := step_running hb h
    · exact .inl hr
    · simp [hidle] at hbusy
    · exact .inr hcompletes.done

/-- Settles O41: each of the four checks reset first, and a read sees the block at its reset values. -/
theorem heldResetIgnoresEverything : Obligations.HeldResetIgnoresEverything := by
  intro s h
  refine ⟨exec_of_held h, fun off size v => hostWrite_of_held h v, deliver_of_held h, fun r => ?_⟩
  rw [hostRead_offset, State.view_of_held h]
  rfl

/-- Settles O45: the block after reset is at rest, and nothing is in the scripts or the traces. -/
theorem resetStateMeetsInvariant : Obligations.ResetStateMeetsInvariant := by
  have hreleased : State.reset.Released :=
    { charNs  := Nat.succ_pos Config.charNsPred
      rstN    := rfl
      scripts := ⟨.nil, nofun, .nil, nofun⟩ }
  exact ⟨hreleased.inv_of_rests (Block.reset_rests _), ⟨rfl, rfl⟩, rfl, rfl, rfl⟩

end Sys2Proof.Machine
end
